-- ==== Sys2Proof/Word.lean ====
section
/-! DEFINITION. The word types of the machine (00_scope.md R7, R9; 30_encoding.md R57) and the one conversion the spec names
for all of them: `bool01` (R10). Every value is unsigned (R10); nothing here is signed. -/

namespace Sys2Proof

/-- An 8-bit value: a byte of memory, a general register, a timer, an immediate NN. -/
abbrev Byte := BitVec 8

/-- A 16-bit value: an opcode, PC, I, a call-stack entry. -/
abbrev Word := BitVec 16

/-- A 4-bit field of an opcode (R14 "Nibble"). -/
abbrev Nibble := BitVec 4

/-- The 12-bit address field NNN. -/
abbrev Addr12 := BitVec 12

/-- The number of a general register, V0 to VF: the 4-bit X and Y fields (10_state.md R16). -/
abbrev RegIdx := BitVec 4

/-- The number of a key, 0 to 15: the 4-bit index of the `set_key` port (10_state.md R36). -/
abbrev KeyIdx := BitVec 4

/-- `bool01(c)` of 00_scope.md R10: 1 if c is true and 0 otherwise. -/
def bool01 (c : Bool) : Byte := if c then 1 else 0

end Sys2Proof
end

