-- ==== Sys2Proof/Syntax.lean ====
section
/-! DEFINITION. The syntax of the instruction set: one constructor per row of spec/opcode_table.json (30_encoding.md R61), in
the table's order. A constructor is named `op` and then the spec's own pattern for it. -/

namespace Sys2Proof

/-- The 34 instructions and the 0NNN fault case of 30_encoding.md R61 and R62. Fields are those of R57: X and Y register
numbers, NN an immediate byte, NNN an address, N a sprite height. -/
inductive Instr where
  /-- 43_display.md R106: clear the pixel grid. -/
  | op00E0
  /-- 40_control_flow.md R74: return from subroutine. -/
  | op00EE
  /-- 40_control_flow.md R75: any other word 0x0NNN. It executes nothing: it raises UnknownInstruction. -/
  | op0NNN (nnn : Addr12)
  /-- 40_control_flow.md R76: jump to NNN. -/
  | op1NNN (nnn : Addr12)
  /-- 40_control_flow.md R77: call NNN. -/
  | op2NNN (nnn : Addr12)
  /-- 40_control_flow.md R78: skip if VX == NN. -/
  | op3XNN (x : RegIdx) (nn : Byte)
  /-- 40_control_flow.md R79: skip if VX != NN. -/
  | op4XNN (x : RegIdx) (nn : Byte)
  /-- 40_control_flow.md R80: skip if VX == VY. -/
  | op5XY0 (x y : RegIdx)
  /-- 40_control_flow.md R81: skip if VX != VY. -/
  | op9XY0 (x y : RegIdx)
  /-- 41_alu.md R85: VX <- NN. -/
  | op6XNN (x : RegIdx) (nn : Byte)
  /-- 41_alu.md R86: VX <- VX + NN, no flag. -/
  | op7XNN (x : RegIdx) (nn : Byte)
  /-- 41_alu.md R87: VX <- VY. -/
  | op8XY0 (x y : RegIdx)
  /-- 41_alu.md R88: VX <- VX OR VY. -/
  | op8XY1 (x y : RegIdx)
  /-- 41_alu.md R89: VX <- VX AND VY. -/
  | op8XY2 (x y : RegIdx)
  /-- 41_alu.md R90: VX <- VX XOR VY. -/
  | op8XY3 (x y : RegIdx)
  /-- 41_alu.md R91: VX <- VX + VY, VF the carry. -/
  | op8XY4 (x y : RegIdx)
  /-- 41_alu.md R92: VX <- VX - VY, VF the no-borrow. -/
  | op8XY5 (x y : RegIdx)
  /-- 41_alu.md R93: VX <- VY >> 1, VF the bit shifted out. -/
  | op8XY6 (x y : RegIdx)
  /-- 41_alu.md R94: VX <- VY - VX, VF the no-borrow. -/
  | op8XY7 (x y : RegIdx)
  /-- 41_alu.md R95: VX <- VY << 1, VF the bit shifted out. -/
  | op8XYE (x y : RegIdx)
  /-- 42_index_memory.md R98: I <- NNN. -/
  | opANNN (nnn : Addr12)
  /-- 40_control_flow.md R82: PC <- NNN + V0. -/
  | opBNNN (nnn : Addr12)
  /-- 41_alu.md R97: VX <- random byte AND NN. -/
  | opCXNN (x : RegIdx) (nn : Byte)
  /-- 43_display.md R108: XOR-draw N rows at (VX, VY), VF the collision. -/
  | opDXYN (x y : RegIdx) (n : Nibble)
  /-- 44_keys_timers.md R112: skip if key VX is pressed. -/
  | opEX9E (x : RegIdx)
  /-- 44_keys_timers.md R113: skip if key VX is not pressed. -/
  | opEXA1 (x : RegIdx)
  /-- 44_keys_timers.md R114: VX <- DT. -/
  | opFX07 (x : RegIdx)
  /-- 44_keys_timers.md R115: VX <- latched key, or wait. -/
  | opFX0A (x : RegIdx)
  /-- 44_keys_timers.md R116: DT <- VX. -/
  | opFX15 (x : RegIdx)
  /-- 44_keys_timers.md R117: ST <- VX. -/
  | opFX18 (x : RegIdx)
  /-- 42_index_memory.md R99: I <- I + VX. -/
  | opFX1E (x : RegIdx)
  /-- 42_index_memory.md R100: I <- 0x050 + VX*5. -/
  | opFX29 (x : RegIdx)
  /-- 42_index_memory.md R101: BCD of VX to mem[I..I+2]. -/
  | opFX33 (x : RegIdx)
  /-- 42_index_memory.md R102: mem[I..I+X] <- V0..VX. -/
  | opFX55 (x : RegIdx)
  /-- 42_index_memory.md R103: V0..VX <- mem[I..I+X]. -/
  | opFX65 (x : RegIdx)
  deriving DecidableEq, Repr

end Sys2Proof
end

