-- ==== Sys2Proof/Decode.lean ====
section
/-! DEFINITION. The decoder of 30_encoding.md R60, total on every 16-bit word and on any bytes, rejecting by name; the encoder,
written from the formats of R58 and the match column of R61; and the opcode map of R61 as a table of masks. -/

namespace Sys2Proof

/-! ## Fields (30_encoding.md R57) -/

/-- N1 = op[15:12], the primary opcode. -/
def fieldN1 (op : Word) : Nibble := op.extractLsb' 12 4

/-- X = op[11:8]. -/
def fieldX (op : Word) : RegIdx := op.extractLsb' 8 4

/-- Y = op[7:4]. -/
def fieldY (op : Word) : RegIdx := op.extractLsb' 4 4

/-- N = op[3:0]. -/
def fieldN (op : Word) : Nibble := op.extractLsb' 0 4

/-- NN = op[7:0]. -/
def fieldNN (op : Word) : Byte := op.extractLsb' 0 8

/-- NNN = op[11:0]. -/
def fieldNNN (op : Word) : Addr12 := op.extractLsb' 0 12

/-! ## The decoder (30_encoding.md R60) -/

/-- Why the decoder rejects: the illegal words of R64 to R67, by family, and a byte string that holds no whole opcode. The
illegal words of the 0 family (R63) are the constructor `op0NNN`, whose meaning raises the same fault. -/
inductive DecodeReject where
  /-- 0x5XYn with n != 0 (R64). -/
  | family5
  /-- 0x8XYn with n in 8 to D or F (R65). -/
  | family8
  /-- 0x9XYn with n != 0 (R64). -/
  | family9
  /-- 0xEXnn with nn neither 0x9E nor 0xA1 (R66). -/
  | familyE
  /-- 0xFXnn with nn outside the nine of R67. -/
  | familyF
  /-- Fewer than two bytes: every instruction is two bytes long (R56). -/
  | truncated
  deriving DecidableEq, Repr

/-- The 8 family: secondary dispatch on N. -/
def decode8 (x y : RegIdx) (n : Nibble) : Except DecodeReject Instr :=
  match n with
  | 0x0#4 => .ok (.op8XY0 x y)
  | 0x1#4 => .ok (.op8XY1 x y)
  | 0x2#4 => .ok (.op8XY2 x y)
  | 0x3#4 => .ok (.op8XY3 x y)
  | 0x4#4 => .ok (.op8XY4 x y)
  | 0x5#4 => .ok (.op8XY5 x y)
  | 0x6#4 => .ok (.op8XY6 x y)
  | 0x7#4 => .ok (.op8XY7 x y)
  | 0xE#4 => .ok (.op8XYE x y)
  | _ => .error .family8

/-- The E family: secondary dispatch on NN. -/
def decodeE (x : RegIdx) (nn : Byte) : Except DecodeReject Instr :=
  match nn with
  | 0x9E#8 => .ok (.opEX9E x)
  | 0xA1#8 => .ok (.opEXA1 x)
  | _ => .error .familyE

/-- The F family: secondary dispatch on NN. -/
def decodeF (x : RegIdx) (nn : Byte) : Except DecodeReject Instr :=
  match nn with
  | 0x07#8 => .ok (.opFX07 x)
  | 0x0A#8 => .ok (.opFX0A x)
  | 0x15#8 => .ok (.opFX15 x)
  | 0x18#8 => .ok (.opFX18 x)
  | 0x1E#8 => .ok (.opFX1E x)
  | 0x29#8 => .ok (.opFX29 x)
  | 0x33#8 => .ok (.opFX33 x)
  | 0x55#8 => .ok (.opFX55 x)
  | 0x65#8 => .ok (.opFX65 x)
  | _ => .error .familyF

/-- `Decode(op)` of R60: dispatch on the top nibble. The 0NNN case carries its address field; executing it raises the
UnknownInstruction fault (40_control_flow.md R75). -/
def decode (op : Word) : Except DecodeReject Instr :=
  match fieldN1 op with
  | 0x0#4 => .ok (if op = 0x00E0#16 then .op00E0 else if op = 0x00EE#16 then .op00EE else .op0NNN (fieldNNN op))
  | 0x1#4 => .ok (.op1NNN (fieldNNN op))
  | 0x2#4 => .ok (.op2NNN (fieldNNN op))
  | 0x3#4 => .ok (.op3XNN (fieldX op) (fieldNN op))
  | 0x4#4 => .ok (.op4XNN (fieldX op) (fieldNN op))
  | 0x5#4 => if fieldN op = 0x0#4 then .ok (.op5XY0 (fieldX op) (fieldY op)) else .error .family5
  | 0x6#4 => .ok (.op6XNN (fieldX op) (fieldNN op))
  | 0x7#4 => .ok (.op7XNN (fieldX op) (fieldNN op))
  | 0x8#4 => decode8 (fieldX op) (fieldY op) (fieldN op)
  | 0x9#4 => if fieldN op = 0x0#4 then .ok (.op9XY0 (fieldX op) (fieldY op)) else .error .family9
  | 0xA#4 => .ok (.opANNN (fieldNNN op))
  | 0xB#4 => .ok (.opBNNN (fieldNNN op))
  | 0xC#4 => .ok (.opCXNN (fieldX op) (fieldNN op))
  | 0xD#4 => .ok (.opDXYN (fieldX op) (fieldY op) (fieldN op))
  | 0xE#4 => decodeE (fieldX op) (fieldNN op)
  | _ => decodeF (fieldX op) (fieldNN op)

/-- The opcode that two consecutive bytes of memory form: the byte at the lower address is the high one (20_memory.md R46). -/
def opcodeOfBytes (hi lo : Byte) : Word := hi ++ lo

/-- Decoding from the front of a byte string: the instruction and the bytes after it. -/
def decodeBytes : List Byte → Except DecodeReject (Instr × List Byte)
  | hi :: lo :: rest => (decode (opcodeOfBytes hi lo)).map (fun i => (i, rest))
  | _ => .error .truncated

/-! ## The encoder -/

/-- Format ADDR: N1, NNN (R58). -/
def asmNNN (n1 : Nibble) (nnn : Addr12) : Word := n1 ++ nnn

/-- Formats REG_IMM and REG_SUB: N1, X, NN (R58). -/
def asmXNN (n1 : Nibble) (x : RegIdx) (nn : Byte) : Word := n1 ++ x ++ nn

/-- Formats REG_REG and DRAW: N1, X, Y, N (R58). -/
def asmXYN (n1 : Nibble) (x y : RegIdx) (n : Nibble) : Word := n1 ++ x ++ y ++ n

/-- The word of an instruction: the fixed nibbles of R61's match column and the fields in their places. -/
def encode : Instr → Word
  | .op00E0 => 0x00E0#16
  | .op00EE => 0x00EE#16
  | .op0NNN nnn => asmNNN 0x0#4 nnn
  | .op1NNN nnn => asmNNN 0x1#4 nnn
  | .op2NNN nnn => asmNNN 0x2#4 nnn
  | .op3XNN x nn => asmXNN 0x3#4 x nn
  | .op4XNN x nn => asmXNN 0x4#4 x nn
  | .op5XY0 x y => asmXYN 0x5#4 x y 0x0#4
  | .op9XY0 x y => asmXYN 0x9#4 x y 0x0#4
  | .op6XNN x nn => asmXNN 0x6#4 x nn
  | .op7XNN x nn => asmXNN 0x7#4 x nn
  | .op8XY0 x y => asmXYN 0x8#4 x y 0x0#4
  | .op8XY1 x y => asmXYN 0x8#4 x y 0x1#4
  | .op8XY2 x y => asmXYN 0x8#4 x y 0x2#4
  | .op8XY3 x y => asmXYN 0x8#4 x y 0x3#4
  | .op8XY4 x y => asmXYN 0x8#4 x y 0x4#4
  | .op8XY5 x y => asmXYN 0x8#4 x y 0x5#4
  | .op8XY6 x y => asmXYN 0x8#4 x y 0x6#4
  | .op8XY7 x y => asmXYN 0x8#4 x y 0x7#4
  | .op8XYE x y => asmXYN 0x8#4 x y 0xE#4
  | .opANNN nnn => asmNNN 0xA#4 nnn
  | .opBNNN nnn => asmNNN 0xB#4 nnn
  | .opCXNN x nn => asmXNN 0xC#4 x nn
  | .opDXYN x y n => asmXYN 0xD#4 x y n
  | .opEX9E x => asmXNN 0xE#4 x 0x9E#8
  | .opEXA1 x => asmXNN 0xE#4 x 0xA1#8
  | .opFX07 x => asmXNN 0xF#4 x 0x07#8
  | .opFX0A x => asmXNN 0xF#4 x 0x0A#8
  | .opFX15 x => asmXNN 0xF#4 x 0x15#8
  | .opFX18 x => asmXNN 0xF#4 x 0x18#8
  | .opFX1E x => asmXNN 0xF#4 x 0x1E#8
  | .opFX29 x => asmXNN 0xF#4 x 0x29#8
  | .opFX33 x => asmXNN 0xF#4 x 0x33#8
  | .opFX55 x => asmXNN 0xF#4 x 0x55#8
  | .opFX65 x => asmXNN 0xF#4 x 0x65#8

/-- The bytes of an instruction as memory holds them: high byte first (20_memory.md R46). -/
def encodeBytes (i : Instr) : List Byte := [(encode i).extractLsb' 8 8, (encode i).extractLsb' 0 8]

/-! ## The opcode map (30_encoding.md R61) -/

/-- The six formats of R58. -/
inductive Format where
  | fixed | addr | regImm | regReg | draw | regSub
  deriving DecidableEq, Repr

/-- One row of the opcode map: the case's number, its match and mask, its format. -/
structure OpcodeRow where
  caseNo : Nat
  matchBits : Word
  mask : Word
  format : Format
  deriving DecidableEq, Repr

/-- "match and mask select the case: op & mask == match" (R61). -/
def OpcodeRow.selects (r : OpcodeRow) (op : Word) : Bool := op &&& r.mask == r.matchBits

/-- Rows 1 to 9 of R61: the 0 family, jumps, call and the register skips. -/
def opcodeMapControl : List OpcodeRow :=
  [⟨1, 0x00E0#16, 0xFFFF#16, .fixed⟩,
   ⟨2, 0x00EE#16, 0xFFFF#16, .fixed⟩,
   ⟨3, 0x0000#16, 0xF000#16, .addr⟩,
   ⟨4, 0x1000#16, 0xF000#16, .addr⟩,
   ⟨5, 0x2000#16, 0xF000#16, .addr⟩,
   ⟨6, 0x3000#16, 0xF000#16, .regImm⟩,
   ⟨7, 0x4000#16, 0xF000#16, .regImm⟩,
   ⟨8, 0x5000#16, 0xF00F#16, .regReg⟩,
   ⟨9, 0x9000#16, 0xF00F#16, .regReg⟩]

/-- Rows 10 to 24 of R61: loads, ALU, index, jump plus V0, random byte, draw. -/
def opcodeMapData : List OpcodeRow :=
  [⟨10, 0x6000#16, 0xF000#16, .regImm⟩,
   ⟨11, 0x7000#16, 0xF000#16, .regImm⟩,
   ⟨12, 0x8000#16, 0xF00F#16, .regReg⟩,
   ⟨13, 0x8001#16, 0xF00F#16, .regReg⟩,
   ⟨14, 0x8002#16, 0xF00F#16, .regReg⟩,
   ⟨15, 0x8003#16, 0xF00F#16, .regReg⟩,
   ⟨16, 0x8004#16, 0xF00F#16, .regReg⟩,
   ⟨17, 0x8005#16, 0xF00F#16, .regReg⟩,
   ⟨18, 0x8006#16, 0xF00F#16, .regReg⟩,
   ⟨19, 0x8007#16, 0xF00F#16, .regReg⟩,
   ⟨20, 0x800E#16, 0xF00F#16, .regReg⟩,
   ⟨21, 0xA000#16, 0xF000#16, .addr⟩,
   ⟨22, 0xB000#16, 0xF000#16, .addr⟩,
   ⟨23, 0xC000#16, 0xF000#16, .regImm⟩,
   ⟨24, 0xD000#16, 0xF000#16, .draw⟩]

/-- Rows 25 to 35 of R61: the E and F families. -/
def opcodeMapSub : List OpcodeRow :=
  [⟨25, 0xE09E#16, 0xF0FF#16, .regSub⟩,
   ⟨26, 0xE0A1#16, 0xF0FF#16, .regSub⟩,
   ⟨27, 0xF007#16, 0xF0FF#16, .regSub⟩,
   ⟨28, 0xF00A#16, 0xF0FF#16, .regSub⟩,
   ⟨29, 0xF015#16, 0xF0FF#16, .regSub⟩,
   ⟨30, 0xF018#16, 0xF0FF#16, .regSub⟩,
   ⟨31, 0xF01E#16, 0xF0FF#16, .regSub⟩,
   ⟨32, 0xF029#16, 0xF0FF#16, .regSub⟩,
   ⟨33, 0xF033#16, 0xF0FF#16, .regSub⟩,
   ⟨34, 0xF055#16, 0xF0FF#16, .regSub⟩,
   ⟨35, 0xF065#16, 0xF0FF#16, .regSub⟩]

/-- The 35 cases of R61, in its order. Row 3 (0NNN) "applies only when neither 00E0 nor 00EE matches": the first row that selects
a word is its case. -/
def opcodeMap : List OpcodeRow := opcodeMapControl ++ opcodeMapData ++ opcodeMapSub

/-- The case of the opcode map that a word falls under, or none. -/
def mapCase (op : Word) : Option OpcodeRow := opcodeMap.find? (·.selects op)

/-- The number of an instruction's row in the opcode map (R61's first column). -/
def Instr.caseNo : Instr → Nat
  | .op00E0 => 1
  | .op00EE => 2
  | .op0NNN _ => 3
  | .op1NNN _ => 4
  | .op2NNN _ => 5
  | .op3XNN _ _ => 6
  | .op4XNN _ _ => 7
  | .op5XY0 _ _ => 8
  | .op9XY0 _ _ => 9
  | .op6XNN _ _ => 10
  | .op7XNN _ _ => 11
  | .op8XY0 _ _ => 12
  | .op8XY1 _ _ => 13
  | .op8XY2 _ _ => 14
  | .op8XY3 _ _ => 15
  | .op8XY4 _ _ => 16
  | .op8XY5 _ _ => 17
  | .op8XY6 _ _ => 18
  | .op8XY7 _ _ => 19
  | .op8XYE _ _ => 20
  | .opANNN _ => 21
  | .opBNNN _ => 22
  | .opCXNN _ _ => 23
  | .opDXYN _ _ _ => 24
  | .opEX9E _ => 25
  | .opEXA1 _ => 26
  | .opFX07 _ => 27
  | .opFX0A _ => 28
  | .opFX15 _ => 29
  | .opFX18 _ => 30
  | .opFX1E _ => 31
  | .opFX29 _ => 32
  | .opFX33 _ => 33
  | .opFX55 _ => 34
  | .opFX65 _ => 35

/-! ## The host's table word -/

/-- The opcode that the host's number stands for: its low `nbits` bits, the bits above them zero. -/
def wordOfTable (nbits w : Nat) : Word := BitVec.ofNat 16 (w % 2 ^ nbits)

/-- The instruction the decoder reads from the bytes of a table word, laid out as memory holds them (high byte first, R46). -/
def decodeTableWord (nbits w : Nat) : Option Instr :=
  match decodeBytes [(wordOfTable nbits w).extractLsb' 8 8, (wordOfTable nbits w).extractLsb' 0 8] with
  | .ok (i, _) => some i
  | .error _ => none

end Sys2Proof
end

