-- ==== Sys2Proof/Config.lean ====
section
/-! DEFINITION. What 00_scope.md R8 leaves to the implementation: the two policies a CHIP-8 engine must pick (as types with
both of their values; the values this spec picks stand in Machine/Params.lean, where a repair may mend them), and the random
generator, which the spec leaves OPEN and this model leaves free (log 3). -/

namespace Sys2Proof.Config

/-- SPRITE_EDGE of R8: what becomes of a sprite pixel outside the 64x32 grid (43_display.md R107). -/
inductive SpriteEdge where
  /-- Both axes wrap: the pixel lands at (u mod 64, w mod 32). -/
  | wrap
  /-- Neither axis is reduced: the pixel is dropped. -/
  | clip
  deriving DecidableEq, Repr

/-- SHIFT_FLAG_STYLE of R8: the value VF takes from 8XY6 and 8XYE (41_alu.md R93, R95). -/
inductive ShiftFlagStyle where
  /-- VF is 0 or 1. -/
  | normalized
  /-- VF is the masked bit itself: 0x00/0x01 for 8XY6, 0x00/0x80 for 8XYE. -/
  | rawBit
  deriving DecidableEq, Repr

/-- RNG_STATE of R8, an OPEN type: a state of the generator is named by a number. DESIGN CHOICE (log 3), safe: every
countable state type can be numbered, and nothing is known of `rngNext` on any number. -/
abbrev RngState := Nat

/-- RNG_SEED of R8, an OPEN value: the number of the fixed seed. DESIGN CHOICE (log 3), safe: which state is numbered 0 says
nothing about the words drawn from it, because `rngNext` is opaque. -/
def rngSeed : RngState := 0

/-- RNG_NEXT of R8 and 41_alu.md R96: one generation, the next state and a 32-bit word. A FREE VALUE (log 3): it has no body,
so no proof can know a word it draws, and a claim about CXNN holds for every generator. -/
opaque rngNext : RngState → RngState × BitVec 32

end Sys2Proof.Config
end

