-- ==== Sys2Proof/Machine/Params.lean ====
section
/-! DEFINITION. The values this spec gives the parameters of 00_scope.md R8: the two policies and the font. They stand apart from
the types in Config.lean so that a repair may mend them. -/

namespace Sys2Proof.Machine.Params

/-- SPRITE_EDGE: `Wrap`, the spec's choice (43_display.md R107, D6). Unsafe where the block clips (log 6). -/
def spriteEdge : Config.SpriteEdge := .wrap

/-- SHIFT_FLAG_STYLE: `Normalized`, the spec's choice (41_alu.md R95, D7). Unsafe where the block writes the raw bit (log 7). -/
def shiftFlagStyle : Config.ShiftFlagStyle := .normalized

/-- Glyphs 0 to 7 of the default font (70_reset_and_hazards.md R140). PRESUMED: the spec takes the bytes from general knowledge
(93_implementation_defined.md G1, log 5). -/
def fontLow : List Byte :=
  [0xF0, 0x90, 0x90, 0x90, 0xF0] ++ [0x20, 0x60, 0x20, 0x20, 0x70] ++
  [0xF0, 0x10, 0xF0, 0x80, 0xF0] ++ [0xF0, 0x10, 0xF0, 0x10, 0xF0] ++
  [0x90, 0x90, 0xF0, 0x10, 0x10] ++ [0xF0, 0x80, 0xF0, 0x10, 0xF0] ++
  [0xF0, 0x80, 0xF0, 0x90, 0xF0] ++ [0xF0, 0x10, 0x20, 0x40, 0x40]

/-- Glyphs 8 to F of the default font (R140). PRESUMED, as `fontLow`. -/
def fontHigh : List Byte :=
  [0xF0, 0x90, 0xF0, 0x90, 0xF0] ++ [0xF0, 0x90, 0xF0, 0x10, 0xF0] ++
  [0xF0, 0x90, 0xF0, 0x90, 0x90] ++ [0xE0, 0x90, 0xE0, 0x90, 0xE0] ++
  [0xF0, 0x80, 0x80, 0x80, 0xF0] ++ [0xE0, 0x90, 0x90, 0x90, 0xE0] ++
  [0xF0, 0x80, 0xF0, 0x80, 0xF0] ++ [0xF0, 0x80, 0xF0, 0x80, 0x80]

/-- FONT, the 80-byte blob installed at construction (R140): glyph d at `0x050 + 5*d`. -/
def font : List Byte := fontLow ++ fontHigh

end Sys2Proof.Machine.Params
end

