-- ==== Sys2Proof/Machine/State.lean ====
section
/-! DEFINITION. The state of the core (10_state.md R15, element by element), its faults (60_exceptions.md R118, R125), and the
state at power-on (R34). State is plain data. -/

namespace Sys2Proof.Machine

/-- The runtime faults of 60_exceptions.md R118, each with the record of R125: `pc` the address the faulting step fetched from,
`opcode` the fetched word (absent when the fetch itself faulted), `addr` the lowest failing address, `key` the bad key index.
A step that raises one goes to a NEXT state whose Status is Faulted with it (R126); the step of a core that is already
faulted answers the outcome `fault` with the recorded one (R127), which is safe: the spec itself stops there (log 1). -/
inductive Fault where
  /-- Code 1: a pop with SP == 0, raised by 00EE (R119). Safe: the spec's own fault. -/
  | stackUnderflow (pc : Word) (opcode : Word)
  /-- Code 2: a push with SP == 16, raised by 2NNN (R120). Safe: the spec's own fault. -/
  | stackOverflow (pc : Word) (opcode : Word)
  /-- Code 3: a word no instruction of the decoder accepts, raised by decode and by the 0NNN case (R121). Safe: the spec's own
  fault. -/
  | unknownInstruction (pc : Word) (opcode : Word)
  /-- Code 4: a memory address above 0xFFF, raised by fetch (no opcode), DXYN, FX33, FX55 and FX65 (R122). Safe: the spec's own
  fault; were the block to mask the address, the model would stop where it goes on (D1, log 10). -/
  | addressOutOfRange (pc : Word) (opcode : Option Word) (addr : Nat)
  /-- Code 5: a key index above 15, raised by EX9E and EXA1 (R123). Safe: the spec's own fault; were the block to mask the
  index, the model would stop where it goes on (D8, log 10). -/
  | keyIndexOutOfRange (pc : Word) (opcode : Word) (key : Byte)
  deriving DecidableEq, Repr

/-- Why the model gives an instruction no meaning. -/
inductive Refusal where
  /-- Raised by an arm of `exec` that has no meaning yet, with the row's mnemonic. Safe: the model stops. No arm of this model
  raises it. -/
  | notModelled (mnemonic : String)
  deriving DecidableEq, Repr

/-- `Status` of 10_state.md R30. -/
inductive Status where
  | running
  | faulted (f : Fault)
  deriving DecidableEq, Repr

/-- Memory as the bytes that differ from what an unlisted address reads as (Machine/Memory.lean), addresses strictly rising. -/
abbrev Memory := List Host.Cell

/-- The pixel grid of 10_state.md R28: 32 rows, top to bottom, of 64 cells, left to right; true is on. -/
abbrev Grid := Vector (Vector Bool 64) 32

/-- The state aggregate of 10_state.md R15, and two fields of the model's own, `beep` and `redraw`: the outputs of the last step
(R35), which the spec gives as results of a step (log 2). -/
structure State where
  /-- `mem[0..4095]` (20_memory.md R39). -/
  mem : Memory
  /-- `V[0..15]`, VF the last (R16, R17). -/
  v : Vector Byte 16
  /-- The index register `I` (R19). -/
  index : Word
  /-- The program counter `PC` (R20). -/
  pc : Word
  /-- `stack[0..15]`, storage of its own (R22). -/
  stack : Vector Word 16
  /-- `SP`, an integer in 0..16 (R23). -/
  sp : Fin 17
  /-- The delay timer `DT` (R24). -/
  dt : Byte
  /-- The sound timer `ST` (R25). -/
  st : Byte
  /-- `Keys[0..15]`, true meaning pressed (R26). -/
  keys : Vector Bool 16
  /-- The key latch (R27). -/
  latch : Option KeyIdx
  /-- `Grid[x][y]` (R28). -/
  grid : Grid
  /-- `OpcodeReg` (R29). -/
  opcodeReg : Word
  /-- `Status` (R30). -/
  status : Status
  /-- `Rng`, the state of the generator (R31). -/
  rng : Config.RngState
  /-- Output (b) of R35: true exactly on the step in which ST went from 1 to 0. The model's own field (log 2). -/
  beep : Bool
  /-- Output (c) of R35: true exactly on a step that executed 00E0 or DXYN. The model's own field (log 2). -/
  redraw : Bool
  deriving DecidableEq, Repr

/-- The state at power-on (10_state.md R34, 70_reset_and_hazards.md R137). Memory lists nothing: an unlisted address reads as its
power-on value. The values R34 takes by decision D11 are the spec's own choice (log 4); `beep` and `redraw` false are
a DESIGN CHOICE (log 2). -/
def State.reset : State where
  mem := []
  v := Vector.replicate 16 0
  index := 0x0000
  pc := 0x0200
  stack := Vector.replicate 16 0x0000
  sp := 0
  dt := 0x00
  st := 0x00
  keys := Vector.replicate 16 false
  latch := none
  grid := Vector.replicate 32 (Vector.replicate 64 false)
  opcodeReg := 0x0000
  status := .running
  rng := Config.rngSeed
  beep := false
  redraw := false

/-- What a meaning answers: one of the three outcomes of a step. -/
abbrev Result := Host.Outcome State Fault Refusal

end Sys2Proof.Machine
end

