-- ==== Sys2Proof/Machine/Memory.lean ====
section
/-! DEFINITION. The 4096-byte memory (20_memory.md R39, R40): what an unlisted address reads as, the canonical form, and the raw
reads and writes of one byte and of a run of bytes. Every access of an instruction passes the address check of R44
(`firstBadAddr`) before it comes here. -/

namespace Sys2Proof.Machine

/-- MEM_SIZE (00_scope.md R7). -/
def memSize : Nat := 4096

/-- FONT_BASE (R7). -/
def fontBase : Nat := 0x050

/-- FONT_LEN, the font region's size in bytes (R7). -/
def fontLen : Nat := 80

/-- PROG_BASE, the entry point (R7, 20_memory.md R41). -/
def progBase : Nat := 0x200

/-- MAX_ROM, the longest program (R7). -/
def maxRom : Nat := 3584

/-- What an unlisted address reads as: its power-on value (10_state.md R34), FONT in 0x050..0x09F and 0x00 elsewhere. -/
def powerOnByte (a : Nat) : Byte :=
  if fontBase ≤ a ∧ a < fontBase + fontLen then Params.font.getD (a - fontBase) 0 else 0

/-- Every listed address is above `lo`, below the size of memory, and holds something other than its power-on value, and the
addresses rise. -/
def Memory.wfAbove (lo : Option Nat) : Memory → Bool
  | [] => true
  | (a, b) :: m =>
    (match lo with | none => true | some l => decide (l < a)) && decide (a < memSize) && b != powerOnByte a &&
      Memory.wfAbove (some a) m

/-- The canonical form: equal memories are equal lists. -/
def Memory.wf (m : Memory) : Bool := Memory.wfAbove none m

/-- The byte at an address. -/
def Memory.read : Memory → Nat → Byte
  | [], a => powerOnByte a
  | (k, b) :: m, a => if k = a then b else Memory.read m a

/-- Listing an address and its byte in front of a memory, unless the byte is what the unlisted address reads as. -/
def Memory.list (a : Nat) (b : Byte) (m : Memory) : Memory := if b = powerOnByte a then m else (a, b) :: m

/-- Writing one byte, keeping the canonical form. -/
def Memory.write : Memory → Nat → Byte → Memory
  | [], a, b => Memory.list a b []
  | (k, c) :: m, a, b =>
    if a < k then Memory.list a b ((k, c) :: m)
    else if a = k then Memory.list a b m
    else (k, c) :: Memory.write m a b

/-- Reading `n` bytes from `base` upwards, one byte at a time (20_memory.md R43, R46). -/
def Memory.readBytes (m : Memory) (base n : Nat) : List Byte := (List.range n).map (fun k => m.read (base + k))

/-- Writing a run of bytes from `base` upwards, one byte at a time. -/
def Memory.writeBytes (m : Memory) (base : Nat) : List Byte → Memory
  | [] => m
  | b :: bs => Memory.writeBytes (m.write base b) (base + 1) bs

/-- The address check of 20_memory.md R44 and R48 over the `n` bytes from `base`: the lowest address above 0xFFF, or none.
Addresses are exact sums, never reduced (R50). -/
def firstBadAddr (base n : Nat) : Option Nat := ((List.range n).map (base + ·)).find? (fun a => decide (a > 0xFFF))

end Sys2Proof.Machine
end

