-- ==== Sys2Proof/Machine/Ops.lean ====
section
/-! DEFINITION. The named operations over registers, stack, timers and status that the meanings share, and TAKING A FAULT as one
operation (60_exceptions.md R126). There is no return from a fault (R128), so none stands beside it. -/

namespace Sys2Proof.Machine

/-! ## General registers (10_state.md R16, R17) -/

/-- VF, the flag register: register 15. -/
def flagReg : RegIdx := 15

/-- `V[x]`. -/
def State.readV (s : State) (x : RegIdx) : Byte := s.v[x.toNat]'x.isLt

/-- `V[x] <- b`. -/
def State.setV (s : State) (x : RegIdx) (b : Byte) : State := { s with v := s.v.set x.toNat b x.isLt }

/-! ## PC and I (R19, R20) -/

/-- `pc <- target`. -/
def State.setPc (s : State) (target : Word) : State := { s with pc := target }

/-- `pc <- PC + 2`, the default successor. -/
def State.advance (s : State) : State := s.setPc (s.pc + 2)

/-- `I <- v`. -/
def State.setIndex (s : State) (w : Word) : State := { s with index := w }

/-! ## Memory, grid, random state -/

/-- The memory array replaced. -/
def State.setMem (s : State) (m : Memory) : State := { s with mem := m }

/-- The pixel grid replaced. -/
def State.setGrid (s : State) (g : Grid) : State := { s with grid := g }

/-- `redraw <- true` (43_display.md R106, R108). -/
def State.markRedraw (s : State) : State := { s with redraw := true }

/-- `RandomByte()` of 41_alu.md R96: the low 8 bits of one 32-bit generation. -/
def State.randomByte (s : State) : Byte := (Config.rngNext s.rng).2.extractLsb' 0 8

/-- The advance of the generator by that one generation. -/
def State.advanceRng (s : State) : State := { s with rng := (Config.rngNext s.rng).1 }

/-! ## Timers (R24, R25) -/

/-- `DT <- b`. -/
def State.setDt (s : State) (b : Byte) : State := { s with dt := b }

/-- `ST <- b`. -/
def State.setSt (s : State) (b : Byte) : State := { s with st := b }

/-! ## Call stack (R23) -/

/-- `Push(v)` of R23: none where SP == 16. -/
def State.push (s : State) (w : Word) : Option State :=
  if h : s.sp.val < 16 then
    some { s with stack := s.stack.set s.sp.val w h, sp := ⟨s.sp.val + 1, by omega⟩ }
  else none

/-- `Pop()` of R23: the popped entry, which stays in place, and the state after; none where SP == 0. -/
def State.pop (s : State) : Option (Word × State) :=
  if h : s.sp.val = 0 then none
  else some (s.stack[s.sp.val - 1]'(by have := s.sp.isLt; omega), { s with sp := ⟨s.sp.val - 1, by have := s.sp.isLt; omega⟩ })

/-! ## Taking a fault -/

/-- Fault entry (60_exceptions.md R126): from the state before the faulting step, the one change is `Status <- Faulted(kind, info)`,
and the step's outputs `beep` and `redraw` are not asserted. -/
def State.enterFault (s : State) (f : Fault) : State := { s with status := .faulted f, beep := false, redraw := false }

/-- `raise Fault(kind, info)` from the state before the step. -/
def raise (f : Fault) (s : State) : Result := .next (s.enterFault f)

/-- The check an instruction makes of every address it will access, before any effect (20_memory.md R44, R48): the fault for the
lowest failing address of `base .. base + n - 1`, or the effect. -/
def requireAddrs (base n : Nat) (i : Instr) (s : State) (effect : Result) : Result :=
  match firstBadAddr base n with
  | some a => raise (.addressOutOfRange s.pc (some (encode i)) a) s
  | none => effect

/-! ## Sequencing (30_encoding.md R71) -/

/-- A skip: PC + 4 where the condition holds, PC + 2 where it fails. -/
def skipIf (c : Bool) (s : State) : Result := .next (s.setPc (if c then s.pc + 4 else s.pc + 2))

/-- `V[x] <- b; pc <- PC + 2`. -/
def loadV (x : RegIdx) (b : Byte) (s : State) : Result := .next (s.setV x b).advance

/-- `V[x] <- b; V[15] <- flag; pc <- PC + 2`: the flag is written last (10_state.md R17, 41_alu.md R84). -/
def loadVFlag (x : RegIdx) (b flag : Byte) (s : State) : Result := .next ((s.setV x b).setV flagReg flag).advance

/-- `I <- w; pc <- PC + 2`. -/
def loadIndex (w : Word) (s : State) : Result := .next (s.setIndex w).advance

/-! ## The ends of a step (30_encoding.md R70, R72) -/

/-- The one-shot outputs of R35 are false until a step asserts them. -/
def State.clearOutputs (s : State) : State := { s with beep := false, redraw := false }

/-- A timer after a tick: one less, never below 0 (60_exceptions.md R132). -/
def tickTimer (b : Byte) : Byte := if b = 0 then 0 else b - 1

/-- `Tick()` of R132: `beep` is the value of ST before the decrement being 1. -/
def State.tick (s : State) : State := { s with beep := s.st == 1, dt := tickTimer s.dt, st := tickTimer s.st }

/-- End of step (30_encoding.md R72): the tick, `Latch <- None`, `OpcodeReg <- op`. The `redraw` output is the execute phase's. -/
def State.endOfStep (s : State) (op : Word) : State := { s.tick with latch := none, opcodeReg := op }

end Sys2Proof.Machine
end

