-- ==== Sys2Proof/Machine/Operands.lean ====
section
/-! DEFINITION. How operands are formed (30_encoding.md R59: unsigned, zero-extended) and the addresses and byte runs the memory
instructions move (20_memory.md R43, R50). -/

namespace Sys2Proof.Machine

/-- `zext_16(NNN)` (R59). -/
def zextAddr (nnn : Addr12) : Word := nnn.setWidth 16

/-- `trunc_8(v)` of 00_scope.md R10. -/
def trunc8 (n : Nat) : Byte := BitVec.ofNat 8 n

/-- `trunc_16(v)` of 00_scope.md R10. -/
def trunc16 (n : Nat) : Word := BitVec.ofNat 16 n

/-- A key index widened to a register (44_keys_timers.md R115). -/
def zextKey (k : KeyIdx) : Byte := k.setWidth 8

/-- The key that a register value names, where it is at most 15 (R111: never masked). -/
def keyOf (b : Byte) : Option KeyIdx := if b.toNat ≤ 15 then some (b.setWidth 4) else none

/-- `Keys[k]` (10_state.md R26). -/
def State.readKey (s : State) (k : KeyIdx) : Bool := s.keys[k.toNat]'k.isLt

/-- The font-glyph address of FX29 (42_index_memory.md R100): 0x050 + VX*5, not masked (D32). -/
def glyphAddr (b : Byte) : Word := trunc16 (fontBase + b.toNat * 5)

/-- The number of registers a block instruction moves: X + 1 (R102, R103). -/
def blockLen (x : RegIdx) : Nat := x.toNat + 1

/-- V0..VX in order, the bytes FX55 stores (R102). -/
def State.regBlock (s : State) (x : RegIdx) : List Byte := (List.range (blockLen x)).map (fun k => s.readV (BitVec.ofNat 4 k))

/-- `V[k] <- MemRead(I + k, 1)` for k in 0..X (R103). -/
def State.loadBlock (s : State) (x : RegIdx) : State :=
  { s with v := Vector.ofFn fun k : Fin 16 => if k.val < blockLen x then s.mem.read (s.index.toNat + k.val) else s.v[k] }

/-- `I <- trunc_16(I + X + 1)` (R102, R103). -/
def State.stepIndex (s : State) (x : RegIdx) : State := s.setIndex (trunc16 (s.index.toNat + blockLen x))

/-- The decimal digits of a byte: hundreds, tens, ones (R101). -/
def bcdDigits (b : Byte) : List Byte := [trunc8 (b.toNat / 100), trunc8 (b.toNat / 10 % 10), trunc8 (b.toNat % 10)]

/-- Where an instruction stores: the first address and the number of bytes (20_memory.md R43; every other instruction stores
nothing). The meanings of FX33 and FX55 check and write exactly these. -/
def storeSpan (i : Instr) (s : State) : Nat × Nat :=
  match i with
  | .opFX33 _ => (s.index.toNat, 3)
  | .opFX55 x => (s.index.toNat, blockLen x)
  | _ => (s.index.toNat, 0)

end Sys2Proof.Machine
end

