-- ==== Sys2Proof/Machine/Flags.lean ====
section
/-! DEFINITION. The ALU's results and the flags they leave in VF (41_alu.md R84): exact arithmetic on unsigned numbers, then one
explicit truncation. VF is the machine's only flag (10_state.md R32). -/

namespace Sys2Proof.Machine

/-- `trunc_8(vx + vy)` (R86, R91). -/
def addResult (vx vy : Byte) : Byte := trunc8 (vx.toNat + vy.toNat)

/-- The carry of 8XY4: `bool01(sum > 255)` (R91). -/
def addCarry (vx vy : Byte) : Byte := bool01 (decide (vx.toNat + vy.toNat > 255))

/-- `trunc_8(a + 256 - b)` (R92, R94). -/
def subResult (a b : Byte) : Byte := trunc8 (a.toNat + 256 - b.toNat)

/-- The no-borrow flag: `bool01(a >= b)` (R92, R94). -/
def subNoBorrow (a b : Byte) : Byte := bool01 (decide (a.toNat ≥ b.toNat))

/-- `vy >> 1` (R93). -/
def shrResult (vy : Byte) : Byte := vy >>> 1

/-- The flag of 8XY6: `vy & 0x01`, the same under both styles (R93). -/
def shrFlag (vy : Byte) : Byte := vy &&& 0x01

/-- `trunc_8(vy << 1)` (R95). -/
def shlResult (vy : Byte) : Byte := trunc8 (vy.toNat <<< 1)

/-- The flag of 8XYE under each SHIFT_FLAG_STYLE (R95, conflict C3): `vy >> 7`, or the raw bit `vy & 0x80`. -/
def shlFlag (style : Config.ShiftFlagStyle) (vy : Byte) : Byte :=
  match style with
  | .normalized => vy >>> 7
  | .rawBit => vy &&& 0x80

end Sys2Proof.Machine
end

