-- ==== Sys2Proof/Machine/Alu.lean ====
section
/-! DEFINITION. The register loads, the ALU family and the random byte of 41_alu.md. Every meaning reads its operands from the
state it is given and writes VF last (R84). -/

namespace Sys2Proof.Machine

/-- R85: `V[X] <- NN`. -/
def exec6XNN (x : RegIdx) (nn : Byte) (s : State) : Result := loadV x nn s

/-- R86: `V[X] <- trunc_8(V[X] + NN)`, no flag. -/
def exec7XNN (x : RegIdx) (nn : Byte) (s : State) : Result := loadV x (addResult (s.readV x) nn) s

/-- R87: `V[X] <- V[Y]`. -/
def exec8XY0 (x y : RegIdx) (s : State) : Result := loadV x (s.readV y) s

/-- R88: `V[X] <- V[X] | V[Y]`; VF is not cleared (D22). -/
def exec8XY1 (x y : RegIdx) (s : State) : Result := loadV x (s.readV x ||| s.readV y) s

/-- R89: `V[X] <- V[X] & V[Y]`; VF is not cleared (D22). -/
def exec8XY2 (x y : RegIdx) (s : State) : Result := loadV x (s.readV x &&& s.readV y) s

/-- R90: `V[X] <- V[X] ^ V[Y]`; VF is not cleared (D22). -/
def exec8XY3 (x y : RegIdx) (s : State) : Result := loadV x (s.readV x ^^^ s.readV y) s

/-- R91: add, VF the carry. -/
def exec8XY4 (x y : RegIdx) (s : State) : Result :=
  loadVFlag x (addResult (s.readV x) (s.readV y)) (addCarry (s.readV x) (s.readV y)) s

/-- R92: VX - VY, VF the no-borrow. -/
def exec8XY5 (x y : RegIdx) (s : State) : Result :=
  loadVFlag x (subResult (s.readV x) (s.readV y)) (subNoBorrow (s.readV x) (s.readV y)) s

/-- R93: VY shifted right into VX, VF the bit shifted out. -/
def exec8XY6 (x y : RegIdx) (s : State) : Result := loadVFlag x (shrResult (s.readV y)) (shrFlag (s.readV y)) s

/-- R94: VY - VX, VF the no-borrow. -/
def exec8XY7 (x y : RegIdx) (s : State) : Result :=
  loadVFlag x (subResult (s.readV y) (s.readV x)) (subNoBorrow (s.readV y) (s.readV x)) s

/-- R95: VY shifted left into VX, VF the bit shifted out in this machine's SHIFT_FLAG_STYLE. -/
def exec8XYE (x y : RegIdx) (s : State) : Result :=
  loadVFlag x (shlResult (s.readV y)) (shlFlag Params.shiftFlagStyle (s.readV y)) s

/-- R97: `r <- RandomByte(); V[X] <- r & NN`: one draw at every execution (R96). -/
def execCXNN (x : RegIdx) (nn : Byte) (s : State) : Result := loadV x (s.randomByte &&& nn) s.advanceRng

end Sys2Proof.Machine
end

