-- ==== Sys2Proof/Machine/ControlFlow.lean ====
section
/-! DEFINITION. The control-flow instructions of 40_control_flow.md: 00EE, 0NNN, 1NNN, 2NNN, 3XNN, 4XNN, 5XY0, 9XY0, BNNN. -/

namespace Sys2Proof.Machine

/-- R74: return; `pc <- Pop() + 2`, StackUnderflow when SP == 0. -/
def exec00EE (s : State) : Result :=
  match s.pop with
  | none => raise (.stackUnderflow s.pc (encode .op00EE)) s
  | some (addr, t) => .next (t.setPc (addr + 2))

/-- R75: no instruction; it always raises UnknownInstruction. -/
def exec0NNN (nnn : Addr12) (s : State) : Result := raise (.unknownInstruction s.pc (encode (.op0NNN nnn))) s

/-- R76: `pc <- zext_16(NNN)`. -/
def exec1NNN (nnn : Addr12) (s : State) : Result := .next (s.setPc (zextAddr nnn))

/-- R77: `Push(PC); pc <- zext_16(NNN)`, StackOverflow when SP == 16. The pushed value is the call's own address (D5). -/
def exec2NNN (nnn : Addr12) (s : State) : Result :=
  match s.push s.pc with
  | none => raise (.stackOverflow s.pc (encode (.op2NNN nnn))) s
  | some t => .next (t.setPc (zextAddr nnn))

/-- R78: skip if VX == NN. -/
def exec3XNN (x : RegIdx) (nn : Byte) (s : State) : Result := skipIf (s.readV x == nn) s

/-- R79: skip if VX != NN. -/
def exec4XNN (x : RegIdx) (nn : Byte) (s : State) : Result := skipIf (s.readV x != nn) s

/-- R80: skip if VX == VY. -/
def exec5XY0 (x y : RegIdx) (s : State) : Result := skipIf (s.readV x == s.readV y) s

/-- R81: skip if VX != VY. -/
def exec9XY0 (x y : RegIdx) (s : State) : Result := skipIf (s.readV x != s.readV y) s

/-- R82: `pc <- zext_16(NNN) + V[0]`, not reduced to 12 bits (D34). -/
def execBNNN (nnn : Addr12) (s : State) : Result := .next (s.setPc (trunc16 (nnn.toNat + (s.readV 0).toNat)))

end Sys2Proof.Machine
end

