-- ==== Sys2Proof/Machine/Grid.lean ====
section
/-! DEFINITION. The pixel grid and the sprite XOR-blit with its collision detector (43_display.md R104 to R108), under either
edge policy of R107. -/

namespace Sys2Proof.Machine

/-- `Grid[x][y]` (R104): column x from the left, row y from the top. -/
def Grid.cell (g : Grid) (x : Fin 64) (y : Fin 32) : Bool := g[y][x]

/-- `Grid[x][y] <- not Grid[x][y]` (R108). -/
def Grid.toggle (g : Grid) (x : Fin 64) (y : Fin 32) : Grid := g.set y (g[y].set x (!g[y][x]))

/-- Every cell off (R106). -/
def Grid.clear : Grid := Vector.replicate 32 (Vector.replicate 64 false)

/-- `Place(u, w)` of R107: the cell of a sprite pixel at unreduced coordinates, or none where it is dropped. -/
def place (edge : Config.SpriteEdge) (u w : Nat) : Option (Fin 64 × Fin 32) :=
  match edge with
  | .wrap => some (⟨u % 64, Nat.mod_lt u (by decide)⟩, ⟨w % 32, Nat.mod_lt w (by decide)⟩)
  | .clip => if h : u < 64 ∧ w < 32 then some (⟨u, h.1⟩, ⟨w, h.2⟩) else none

/-- One set sprite bit (R108): a visible one collides where the cell is on, and toggles it. The pair is the grid and the
collision so far. -/
def blitPixel (edge : Config.SpriteEdge) (u w : Nat) (acc : Grid × Bool) : Grid × Bool :=
  match place edge u w with
  | none => acc
  | some (px, py) => (acc.1.toggle px py, acc.2 || acc.1.cell px py)

/-- One sprite row at (vx, w) (R105, R108): bit 7 - c is column vx + c. The bit order is the spec's decision D15, PRESUMED from
general knowledge (log 8). -/
def blitRow (edge : Config.SpriteEdge) (vx w : Nat) (row : Byte) (acc : Grid × Bool) : Grid × Bool :=
  (List.range 8).foldl (fun acc c => if row.getLsbD (7 - c) then blitPixel edge (vx + c) w acc else acc) acc

/-- The rows of a sprite from grid row w downwards (R108). -/
def blitRows (edge : Config.SpriteEdge) (vx w : Nat) : List Byte → Grid × Bool → Grid × Bool
  | [], acc => acc
  | row :: rows, acc => blitRows edge vx (w + 1) rows (blitRow edge vx w row acc)

/-- The whole blit of R108: the grid after it, and whether a set bit struck a cell that was on. -/
def blit (edge : Config.SpriteEdge) (vx vy : Nat) (rows : List Byte) (g : Grid) : Grid × Bool :=
  blitRows edge vx vy rows (g, false)

/-- The grid as the host reads it (R104, 10_state.md R35): row-major, origin top-left, cell (x, y) at y*64 + x. -/
def Grid.rowMajor (g : Grid) : List Bool := g.toList.flatMap Vector.toList

end Sys2Proof.Machine
end

