-- ==== Sys2Proof/Machine/Display.lean ====
section
/-! DEFINITION. The two display instructions of 43_display.md: 00E0 and DXYN. -/

namespace Sys2Proof.Machine

/-- R106: every cell off, redraw asserted. -/
def exec00E0 (s : State) : Result := .next (s.setGrid Grid.clear).markRedraw.advance

/-- The sprite of a DXYN: the N bytes from I (R104). -/
def State.sprite (s : State) (n : Nibble) : List Byte := s.mem.readBytes s.index.toNat n.toNat

/-- The blit of a DXYN at (VX, VY) under this machine's SPRITE_EDGE. -/
def State.drawn (s : State) (x y : RegIdx) (n : Nibble) : Grid × Bool :=
  blit Params.spriteEdge (s.readV x).toNat (s.readV y).toNat (s.sprite n) s.grid

/-- R108: XOR-draw N rows at (VX, VY), VF the collision, written last, redraw asserted. All N addresses are checked first,
whatever the edge policy drops (D20). -/
def execDXYN (x y : RegIdx) (n : Nibble) (s : State) : Result :=
  requireAddrs s.index.toNat n.toNat (.opDXYN x y n) s
    (.next (((s.setGrid (s.drawn x y n).1).setV flagReg (bool01 (s.drawn x y n).2)).markRedraw.advance))

end Sys2Proof.Machine
end

