-- ==== Sys2Proof/Machine/IndexMemory.lean ====
section
/-! DEFINITION. The index register and memory instructions of 42_index_memory.md: ANNN, FX1E, FX29, FX33, FX55, FX65. The last
three check every address before any effect (20_memory.md R48). -/

namespace Sys2Proof.Machine

/-- R98: `I <- zext_16(NNN)`. -/
def execANNN (nnn : Addr12) (s : State) : Result := loadIndex (zextAddr nnn) s

/-- R99: `I <- trunc_16(I + V[X])`; VF is unchanged (D22). -/
def execFX1E (x : RegIdx) (s : State) : Result := loadIndex (trunc16 (s.index.toNat + (s.readV x).toNat)) s

/-- R100: `I <- 0x050 + V[X] * 5`. -/
def execFX29 (x : RegIdx) (s : State) : Result := loadIndex (glyphAddr (s.readV x)) s

/-- R101: the three decimal digits of VX to I, I+1, I+2; I is not changed. -/
def execFX33 (x : RegIdx) (s : State) : Result :=
  requireAddrs s.index.toNat 3 (.opFX33 x) s
    (.next (s.setMem (s.mem.writeBytes s.index.toNat (bcdDigits (s.readV x)))).advance)

/-- R102: V0..VX to memory from I; I advances by X + 1. -/
def execFX55 (x : RegIdx) (s : State) : Result :=
  requireAddrs s.index.toNat (blockLen x) (.opFX55 x) s
    (.next ((s.setMem (s.mem.writeBytes s.index.toNat (s.regBlock x))).stepIndex x).advance)

/-- R103: V0..VX from memory from I; I advances by X + 1. -/
def execFX65 (x : RegIdx) (s : State) : Result :=
  requireAddrs s.index.toNat (blockLen x) (.opFX65 x) s (.next ((s.loadBlock x).stepIndex x).advance)

end Sys2Proof.Machine
end

