-- ==== Sys2Proof/Machine/KeysTimers.lean ====
section
/-! DEFINITION. The key and timer instructions of 44_keys_timers.md: EX9E, EXA1, FX07, FX0A, FX15, FX18. The tick that follows
every completed step is the step's (`State.endOfStep`), so a timer read here is the value before it. -/

namespace Sys2Proof.Machine

/-- The key index check of R111 and the skip on the key's flag. -/
def skipOnKey (i : Instr) (x : RegIdx) (want : Bool) (s : State) : Result :=
  match keyOf (s.readV x) with
  | none => raise (.keyIndexOutOfRange s.pc (encode i) (s.readV x)) s
  | some k => skipIf (s.readKey k == want) s

/-- R112: skip if key VX is pressed. -/
def execEX9E (x : RegIdx) (s : State) : Result := skipOnKey (.opEX9E x) x true s

/-- R113: skip if key VX is not pressed. -/
def execEXA1 (x : RegIdx) (s : State) : Result := skipOnKey (.opEXA1 x) x false s

/-- R114: `V[X] <- DT`. -/
def execFX07 (x : RegIdx) (s : State) : Result := loadV x s.dt s

/-- R115: the latched key into VX, or no write and no change of PC. The wait completes like any other instruction. -/
def execFX0A (x : RegIdx) (s : State) : Result :=
  match s.latch with
  | some k => loadV x (zextKey k) s
  | none => .next s

/-- R116: `DT <- V[X]`. -/
def execFX15 (x : RegIdx) (s : State) : Result := .next (s.setDt (s.readV x)).advance

/-- R117: `ST <- V[X]`. -/
def execFX18 (x : RegIdx) (s : State) : Result := .next (s.setSt (s.readV x)).advance

end Sys2Proof.Machine
end

