-- ==== Sys2Proof/Machine/Cycle.lean ====
section
/-! DEFINITION. The instruction cycle of 30_encoding.md R70: fetch, decode, execute, end of step. Step.lean only calls it. -/

namespace Sys2Proof.Machine

/-- The opcode at an address: two bytes, the one at the lower address high (20_memory.md R45, R46). -/
def Memory.opcodeAt (m : Memory) (a : Nat) : Word := opcodeOfBytes (m.read a) (m.read (a + 1))

/-- `Fetch()` of R45: both bytes are checked, and the record of a failing one holds no opcode (R44, R125). -/
def fetch (s : State) : Except Fault Word :=
  match firstBadAddr s.pc.toNat 2 with
  | some a => .error (.addressOutOfRange s.pc none a)
  | none => .ok (s.mem.opcodeAt s.pc.toNat)

/-- What the step makes of the execute phase: the end-of-step updates of R72 where the instruction completed, nothing more where
it raised a fault (60_exceptions.md R126: no tick, no latch clear, no OpcodeReg update). -/
def finish (op : Word) (r : Result) : Result :=
  match r with
  | .next t => if t.status = .running then .next (t.endOfStep op) else .next t
  | .fault f => .fault f
  | .refused c => .refused c

/-- One cycle of a running core (R70), faults in phase order (60_exceptions.md R129). -/
def runCycle (s : State) : Result :=
  match fetch s with
  | .error f => raise f s
  | .ok op =>
    match decode op with
    | .error _ => raise (.unknownInstruction s.pc op) s
    | .ok i => finish op (exec i s.clearOutputs)

/-- Where `withFetchWord` lets the next fetch read: PC where a fetch there is legal, else the entry point. -/
def fetchablePc (pc : Word) : Word := if pc.toNat ≤ 0xFFE then pc else 0x0200

/-- A running core with the opcode `op` stored where it fetches next, high byte first. -/
def State.placeOpcode (s : State) (op : Word) : State :=
  { s with
    status := .running
    pc := fetchablePc s.pc
    mem := s.mem.writeBytes (fetchablePc s.pc).toNat [op.extractLsb' 8 8, op.extractLsb' 0 8] }

end Sys2Proof.Machine
end

