-- ==== Sys2Proof/Machine/Step.lean ====
section
/-! DEFINITION. One step of the core (30_encoding.md R70). -/

namespace Sys2Proof.Machine

/-- `step()`: a faulted core returns its recorded fault and changes nothing (60_exceptions.md R127); a running one runs a cycle. -/
def step (s : State) : Host.Outcome State Fault Refusal :=
  match s.status with
  | .faulted f => .fault f
  | .running => runCycle s

/-- The state with the host's table word stored where `step` fetches next. Beside the two bytes of memory it sets only what the
fetch needs: Status Running, and a PC that a fetch is legal at (log 16). -/
def State.withFetchWord (s : State) (nbits w : Nat) : State := s.placeOpcode (wordOfTable nbits w)

end Sys2Proof.Machine
end

