-- ==== Sys2Proof/Machine/HostOps.lean ====
section
/-! DEFINITION. What the host can do to the core between steps and what it can read from it (10_state.md R35, R36, R37;
70_reset_and_hazards.md R137 to R144). None of these is a step (log 18). -/

namespace Sys2Proof.Machine

/-- The load error of 60_exceptions.md R124: recoverable, not a runtime fault. -/
inductive LoadError where
  | capacityExceeded
  deriving DecidableEq, Repr

/-- `install_fontset(bytes)` (70_reset_and_hazards.md R138, R139). -/
def installFontset (bytes : List Byte) (s : State) : Except LoadError State :=
  if bytes.length > fontLen then .error .capacityExceeded
  else .ok (s.setMem (s.mem.writeBytes fontBase bytes))

/-- `load_program(bytes)` (R141 to R144): on success the ROM at 0x200, PC 0x200, I 0, the stack emptied and its entries zeroed
(D12), everything else as it was. -/
def loadProgram (bytes : List Byte) (s : State) : Except LoadError State :=
  if bytes.length > maxRom then .error .capacityExceeded
  else .ok { s with
    mem := s.mem.writeBytes progBase bytes
    pc := 0x0200
    index := 0x0000
    stack := Vector.replicate 16 0x0000
    sp := 0 }

/-- `set_key(k, pressed)` (10_state.md R36, R27): the flag, and the latch when pressed; a release leaves the latch (D9). -/
def setKey (k : KeyIdx) (pressed : Bool) (s : State) : State :=
  { s with keys := s.keys.set k.toNat pressed k.isLt, latch := if pressed then some k else s.latch }

/-- The host operations of R36 other than `step` and the reads, and the power-on reset of R137. -/
inductive HostOp where
  | powerOn
  | installFontset (bytes : List Byte)
  | loadProgram (bytes : List Byte)
  | setKey (k : KeyIdx) (pressed : Bool)
  deriving DecidableEq, Repr

/-- What a host operation answers: the new state, or a load error, which leaves the state unchanged. -/
def HostOp.run (o : HostOp) (s : State) : Except LoadError State :=
  match o with
  | .powerOn => .ok State.reset
  | .installFontset bytes => Machine.installFontset bytes s
  | .loadProgram bytes => Machine.loadProgram bytes s
  | .setKey k pressed => .ok (Machine.setKey k pressed s)

/-- The state after a host operation: on an error, the state from before the call (R139, R142). -/
def HostOp.after (o : HostOp) (s : State) : State :=
  match o.run s with
  | .ok t => t
  | .error _ => s

/-- The numeric code of a fault (60_exceptions.md R118). -/
def Fault.code : Fault → Nat
  | .stackUnderflow _ _ => 1
  | .stackOverflow _ _ => 2
  | .unknownInstruction _ _ => 3
  | .addressOutOfRange _ _ _ => 4
  | .keyIndexOutOfRange _ _ _ => 5

/-- The `pc` of a fault's record (R125). -/
def Fault.pc : Fault → Word
  | .stackUnderflow pc _ => pc
  | .stackOverflow pc _ => pc
  | .unknownInstruction pc _ => pc
  | .addressOutOfRange pc _ _ => pc
  | .keyIndexOutOfRange pc _ _ => pc

/-- The `opcode` of a fault's record (R125), absent when the fetch itself faulted. -/
def Fault.opcode : Fault → Option Word
  | .stackUnderflow _ op => some op
  | .stackOverflow _ op => some op
  | .unknownInstruction _ op => some op
  | .addressOutOfRange _ op _ => op
  | .keyIndexOutOfRange _ op _ => some op

/-- The result a step returned (00_scope.md R12), read from the state it left: `Ok` with the two outputs, or the fault. -/
inductive StepResult where
  | ok (beep redraw : Bool)
  | fault (f : Fault)
  deriving DecidableEq, Repr

/-- The result of the step that led to this state. -/
def State.result (s : State) : StepResult :=
  match s.status with
  | .running => .ok s.beep s.redraw
  | .faulted f => .fault f

/-- The read-only debug port (10_state.md R37): "current opcode, PC, index, stack pointer, full stack, full register file". -/
structure DebugView where
  opcodeReg : Word
  pc : Word
  index : Word
  sp : Fin 17
  stack : Vector Word 16
  v : Vector Byte 16
  deriving DecidableEq, Repr

/-- Reading the debug port; it has no effect (R37). -/
def State.debugPort (s : State) : DebugView :=
  { opcodeReg := s.opcodeReg, pc := s.pc, index := s.index, sp := s.sp, stack := s.stack, v := s.v }

/-- The grid as the host reads it after a step (R35 (a)). -/
def State.readGrid (s : State) : List Bool := s.grid.rowMajor

end Sys2Proof.Machine
end

