-- ==== Sys2Proof/Safety.lean ====
section
/-! DEFINITION. The terms claims are stated in: what is the same in two states, what each instruction may write, a safe run, the
invariant of the machine and the states a run can reach. -/

namespace Sys2Proof.Machine

/-! ## Frames -/

/-- The elements of the state (10_state.md R15) and the two outputs of R35. -/
inductive Component where
  | mem | v | index | pc | stack | sp | dt | st | keys | latch | grid | opcodeReg | status | rng | beep | redraw
  deriving DecidableEq, Repr

/-- One element is the same in two states, read the way the machine reads it: memory byte by byte, registers one by one, the
grid cell by cell. -/
def Component.same (c : Component) (s t : State) : Prop :=
  match c with
  | .mem => ∀ a, t.mem.read a = s.mem.read a
  | .v => ∀ r, t.readV r = s.readV r
  | .index => t.index = s.index
  | .pc => t.pc = s.pc
  | .stack => ∀ k : Fin 16, t.stack[k] = s.stack[k]
  | .sp => t.sp = s.sp
  | .dt => t.dt = s.dt
  | .st => t.st = s.st
  | .keys => ∀ k, t.readKey k = s.readKey k
  | .latch => t.latch = s.latch
  | .grid => ∀ x y, t.grid.cell x y = s.grid.cell x y
  | .opcodeReg => t.opcodeReg = s.opcodeReg
  | .status => t.status = s.status
  | .rng => t.rng = s.rng
  | .beep => t.beep = s.beep
  | .redraw => t.redraw = s.redraw

/-- Every element but those listed is the same in `t` as in `s`. -/
def SameExcept (cs : List Component) (s t : State) : Prop := ∀ c, c ∉ cs → c.same s t

/-- What an instruction that completes may write: the elements its rule in 40_control_flow.md to 44_keys_timers.md names. 0NNN never
completes. -/
def mayWrite : Instr → List Component
  | .op00E0 => [.grid, .redraw, .pc]
  | .op00EE => [.sp, .pc]
  | .op0NNN _ => []
  | .op1NNN _ => [.pc]
  | .op2NNN _ => [.stack, .sp, .pc]
  | .op3XNN _ _ => [.pc]
  | .op4XNN _ _ => [.pc]
  | .op5XY0 _ _ => [.pc]
  | .op9XY0 _ _ => [.pc]
  | .op6XNN _ _ => [.v, .pc]
  | .op7XNN _ _ => [.v, .pc]
  | .op8XY0 _ _ => [.v, .pc]
  | .op8XY1 _ _ => [.v, .pc]
  | .op8XY2 _ _ => [.v, .pc]
  | .op8XY3 _ _ => [.v, .pc]
  | .op8XY4 _ _ => [.v, .pc]
  | .op8XY5 _ _ => [.v, .pc]
  | .op8XY6 _ _ => [.v, .pc]
  | .op8XY7 _ _ => [.v, .pc]
  | .op8XYE _ _ => [.v, .pc]
  | .opANNN _ => [.index, .pc]
  | .opBNNN _ => [.pc]
  | .opCXNN _ _ => [.v, .rng, .pc]
  | .opDXYN _ _ _ => [.grid, .v, .redraw, .pc]
  | .opEX9E _ => [.pc]
  | .opEXA1 _ => [.pc]
  | .opFX07 _ => [.v, .pc]
  | .opFX0A _ => [.v, .pc]
  | .opFX15 _ => [.dt, .pc]
  | .opFX18 _ => [.st, .pc]
  | .opFX1E _ => [.index, .pc]
  | .opFX29 _ => [.index, .pc]
  | .opFX33 _ => [.mem, .pc]
  | .opFX55 _ => [.mem, .index, .pc]
  | .opFX65 _ => [.v, .index, .pc]

/-- The general registers an instruction may write (10_state.md R18): "6XNN, 7XNN, 8XY0 to 8XY7 and 8XYE, CXNN, FX07, FX0A (only
when a key is latched), FX65 (V0..VX) write V[X]; 8XY4, 8XY5, 8XY6, 8XY7, 8XYE and DXYN write VF". -/
def mayWriteV (i : Instr) (s : State) (r : RegIdx) : Bool :=
  match i with
  | .op00E0 => false
  | .op00EE => false
  | .op0NNN _ => false
  | .op1NNN _ => false
  | .op2NNN _ => false
  | .op3XNN _ _ => false
  | .op4XNN _ _ => false
  | .op5XY0 _ _ => false
  | .op9XY0 _ _ => false
  | .op6XNN x _ => r == x
  | .op7XNN x _ => r == x
  | .op8XY0 x _ => r == x
  | .op8XY1 x _ => r == x
  | .op8XY2 x _ => r == x
  | .op8XY3 x _ => r == x
  | .op8XY4 x _ => r == x || r == flagReg
  | .op8XY5 x _ => r == x || r == flagReg
  | .op8XY6 x _ => r == x || r == flagReg
  | .op8XY7 x _ => r == x || r == flagReg
  | .op8XYE x _ => r == x || r == flagReg
  | .opANNN _ => false
  | .opBNNN _ => false
  | .opCXNN x _ => r == x
  | .opDXYN _ _ _ => r == flagReg
  | .opEX9E _ => false
  | .opEXA1 _ => false
  | .opFX07 x => r == x
  | .opFX0A x => s.latch.isSome && r == x
  | .opFX15 _ => false
  | .opFX18 _ => false
  | .opFX1E _ => false
  | .opFX29 _ => false
  | .opFX33 _ => false
  | .opFX55 _ => false
  | .opFX65 x => decide (r.toNat ≤ x.toNat)

/-! ## Sprites -/

/-- A set bit of the sprite `rows`, drawn at (vx, vy), strikes cell (px, py) (43_display.md R105, R107): row r, column c, bit
7 - c. -/
def SpriteStrikes (edge : Config.SpriteEdge) (vx vy : Nat) (rows : List Byte) (px : Fin 64) (py : Fin 32) : Prop :=
  ∃ (r c : Nat) (h : r < rows.length), c < 8 ∧ rows[r].getLsbD (7 - c) = true ∧ place edge (vx + c) (vy + r) = some (px, py)

/-! ## Runs -/

/-- The opcode the next fetch reads, where a fetch is legal. -/
def State.nextOpcode (s : State) : Word := s.mem.opcodeAt s.pc.toNat

/-- A running core that fetches and decodes the instruction `i` next. -/
def RunsNext (s : State) (i : Instr) : Prop := s.status = .running ∧ s.pc.toNat ≤ 0xFFE ∧ decode s.nextOpcode = .ok i

/-- The execute phases of several instructions, one after the other. -/
def execAll : List Instr → State → Result
  | [], s => .next s
  | i :: is, s =>
    match exec i s with
    | .next t => execAll is t
    | .fault f => .fault f
    | .refused c => .refused c

/-- `n` steps, one after the other, as far as each answers a next state. -/
def stepN : Nat → State → Result
  | 0, s => .next s
  | n + 1, s =>
    match step s with
    | .next t => stepN n t
    | .fault f => .fault f
    | .refused c => .refused c

/-- The core has raised no fault (10_state.md R30). -/
def Safe (s : State) : Prop := s.status = .running

/-! ## The invariant -/

/-- What every step keeps: memory is in canonical form; PC is at most 0x10FE and every stack entry at most 0x0FFE (10_state.md
R21). -/
structure Inv (s : State) : Prop where
  mem : s.mem.wf = true
  pc : s.pc.toNat ≤ 0x10FE
  stack : ∀ k : Fin 16, s.stack[k].toNat ≤ 0x0FFE

/-- The states of a core that was powered on and then stepped and operated by the host in any order. -/
inductive Reachable : State → Prop where
  | powerOn : Reachable State.reset
  | step {s t : State} : Reachable s → step s = .next t → Reachable t
  | host {s : State} (o : HostOp) : Reachable s → Reachable (o.after s)

end Sys2Proof.Machine
end

