-- ==== Sys2Proof/Certificates/Slice0/Obligations.lean ====
section
/-! DEFINITION. The statements for the provers. Each docstring names the rules it formalises; one that rests on a decision of
92_eei_decisions.md or on a row of the assumption log says so. Where a docstring names an instruction's rule alone, the statement
also gives the rule's encoding: the instruction's word under the rule's mask is the rule's match. -/

open Sys2Proof Sys2Proof.Machine

/-! ## Encoding -/

/-- 30_encoding.md sections 1 and 2 (R57 to R61): decoding the word, or the bytes, of any well-formed instruction gives it back
with every field, and leaves the bytes after it. -/
def Obligations.DecodeOfEncodeGivesTheInstructionBack : Prop :=
  ∀ i : Instr, i.WellFormed →
    decode (encode i) = .ok i ∧ ∀ rest, decodeBytes (encodeBytes i ++ rest) = .ok (i, rest)

/-- 30_encoding.md section 2 (R60, R61): a word that decodes is the word of what it decodes to, so no two words share a meaning
and no bit of a word is ignored. -/
def Obligations.EncodeOfDecodeGivesTheWordBack : Prop :=
  ∀ (op : Word) (i : Instr), decode op = .ok i → encode i = op ∧ i.WellFormed

/-- 30_encoding.md section 4 (R73, an inference the spec marks as its own): the decoder (R60) and the opcode map (R61) pick the
same case for every word, and no two rows other than row 3 (0NNN) select one word. That 0x0000 falls under row 3 and 0x5XYn,
0x9XYn with n != 0 under none are decisions D3 and D4 (log 22). -/
def Obligations.DecodeSelectsExactlyTheMapCase : Prop :=
  ∀ op : Word,
    ((mapCase op).map OpcodeRow.caseNo = match decode op with | .ok i => some i.caseNo | .error _ => none) ∧
    ∀ r ∈ opcodeMap, ∀ r' ∈ opcodeMap, r.selects op = true → r'.selects op = true →
      r.caseNo ≠ 3 → r'.caseNo ≠ 3 → r = r'

/-- 30_encoding.md section 3 (the record and the unchanged state are decisions D23 and D2): an illegal word of the 8, E or F
family raises UnknownInstruction, and the step keeps no other change. -/
def Obligations.IllegalWordsOfFamilies8EFRaiseUnknownInstruction : Prop :=
  ∀ (s : State) (op : Word), s.status = .running → s.pc.toNat ≤ 0xFFE → s.nextOpcode = op →
    ((fieldN1 op = 0x8 ∧ fieldN op ∈ [0x8, 0x9, 0xA, 0xB, 0xC, 0xD, 0xF]) ∨
      (fieldN1 op = 0xE ∧ fieldNN op ∉ [0x9E, 0xA1]) ∨
      (fieldN1 op = 0xF ∧ fieldNN op ∉ [0x07, 0x0A, 0x15, 0x18, 0x1E, 0x29, 0x33, 0x55, 0x65])) →
    step s = .next { s with status := .faulted (.unknownInstruction s.pc op), beep := false, redraw := false }

/-- 30_encoding.md section 3, by decisions D3 (0x0000) and D4 (the 5 and 9 families): every word 0x0NNN but the two instructions,
and every 0x5XYn and 0x9XYn with n != 0, raises UnknownInstruction, and the step keeps no other change. -/
def Obligations.IllegalWordsOfFamilies059RaiseUnknownInstruction : Prop :=
  ∀ (s : State) (op : Word), s.status = .running → s.pc.toNat ≤ 0xFFE → s.nextOpcode = op →
    ((fieldN1 op = 0x0 ∧ op ≠ 0x00E0 ∧ op ≠ 0x00EE) ∨ ((fieldN1 op = 0x5 ∨ fieldN1 op = 0x9) ∧ fieldN op ≠ 0x0)) →
    step s = .next { s with status := .faulted (.unknownInstruction s.pc op), beep := false, redraw := false }

/-- A sanity statement over a few words written out from R61: each decodes to the instruction it stands for. -/
def Obligations.WrittenOutWordsDecode : Prop :=
  decode 0b0000000011101110 = .ok .op00EE ∧ decode 0b0011101001111011 = .ok (.op3XNN 0xA 0x7B) ∧
  decode 0b1000000100101110 = .ok (.op8XYE 0x1 0x2) ∧ decode 0b1010001100000000 = .ok (.opANNN 0x300) ∧
  decode 0b1101000000010101 = .ok (.opDXYN 0x0 0x1 0x5) ∧ decode 0b1110010110011110 = .ok (.opEX9E 0x5) ∧
  decode 0b1111001101100101 = .ok (.opFX65 0x3) ∧ decode 0b0101000100100001 = .error .family5

/-! ## The instruction cycle -/

/-- 30_encoding.md section 4 (R70, R71, R72): where the bytes at PC decode to `i`, a step is the execute phase of `i` on the state
with its one-shot outputs cleared, followed, where that raised no fault, by the end-of-step updates. -/
def Obligations.StepExecutesTheDecodedInstruction : Prop :=
  ∀ (s t : State) (i : Instr), s.status = .running → s.pc.toNat ≤ 0xFFE →
    decode (opcodeOfBytes (s.mem.read s.pc.toNat) (s.mem.read (s.pc.toNat + 1))) = .ok i →
    exec i { s with beep := false, redraw := false } = .next t →
    step s = .next (if t.status = .running then
        { t with
          beep := t.st == 1
          dt := if t.dt = 0 then 0 else t.dt - 1
          st := if t.st = 0 then 0 else t.st - 1
          latch := none
          opcodeReg := opcodeOfBytes (s.mem.read s.pc.toNat) (s.mem.read (s.pc.toNat + 1)) }
      else t)

/-- 30_encoding.md section 4 (end of step; redraw by decision D18, OpcodeReg by D19): after a successful execute phase that led to
`u`, the timers tick from `u` and beep is computed, the latch is cleared, OpcodeReg holds the opcode, `redraw` is true exactly for
00E0 and DXYN, and nothing else changes. -/
def Obligations.CompletedStepTicksClearsTheLatchAndRecordsTheOpcode : Prop :=
  ∀ s t : State, s.status = .running → step s = .next t → t.status = .running →
    ∃ (i : Instr) (u : State), RunsNext s i ∧ exec i s.clearOutputs = .next u ∧
      t.dt.toNat = u.dt.toNat - 1 ∧ t.st.toNat = u.st.toNat - 1 ∧ (t.beep = true ↔ u.st = 1) ∧
      t.latch = none ∧ t.opcodeReg = s.nextOpcode ∧
      (t.redraw = true ↔ i = .op00E0 ∨ ∃ x y n, i = .opDXYN x y n) ∧
      SameExcept [.dt, .st, .beep, .latch, .opcodeReg, .redraw] u t ∧ t.redraw = u.redraw

/-- 60_exceptions.md section 3 (R132, by decision D10 also for a waiting FX0A): every completed step ticks both timers once, never
below 0, from their values before the step unless it wrote them, and beeps exactly where ST was 1. -/
def Obligations.EveryCompletedStepTicksBothTimersOnce : Prop :=
  ∀ s t : State, s.status = .running → step s = .next t → t.status = .running →
    ((∀ x, ¬ RunsNext s (.opFX15 x)) → t.dt.toNat = s.dt.toNat - 1) ∧
    ((∀ x, ¬ RunsNext s (.opFX18 x)) → t.st.toNat = s.st.toNat - 1 ∧ (t.beep = true ↔ s.st = 1))

/-- 00_scope.md section 3 ("a pure, non-blocking, bounded-time state transition"): a step of a running core always answers a next
state. A step that faults counts: its fault entry IS the next state, with Status Faulted, which is the model's choice (log 1,
DESIGN CHOICE). -/
def Obligations.RunningCoreAlwaysStepsToANextState : Prop :=
  ∀ s : State, s.status = .running → ∃ t, step s = .next t

/-! ## Faults -/

/-- 20_memory.md section 2 (R45, by decision D1): a fetch at PC >= 0xFFF raises AddressOutOfRange with no opcode in its record,
`addr` the first failing address, and the step keeps no other change. -/
def Obligations.FetchPastTheEndOfMemoryFaults : Prop :=
  ∀ s : State, s.status = .running → 0xFFF ≤ s.pc.toNat →
    step s = .next { s with
      status := .faulted (.addressOutOfRange s.pc none (if 0xFFF < s.pc.toNat then s.pc.toNat else 0x1000))
      beep := false
      redraw := false }

/-- 60_exceptions.md section 1 (R126, by decision D2): faults are precise. A step that raises a fault changes only Status, asserts
neither output, and its record holds the PC of the faulting step. -/
def Obligations.FaultingStepChangesOnlyTheStatus : Prop :=
  ∀ (s t : State) (f : Fault), s.status = .running → step s = .next t → t.status = .faulted f →
    t = { s with status := .faulted f, beep := false, redraw := false } ∧ f.pc = s.pc ∧
      (f.opcode = some s.nextOpcode ∨ (f.opcode = none ∧ 0xFFE < s.pc.toNat))

/-- 60_exceptions.md section 1 (R127, R128) and 70_reset_and_hazards.md section 3 (R147), by decisions D2 and D25: a faulted core
returns its recorded fault at every step; no host operation but power-on clears it, and power-on does. -/
def Obligations.FaultedCoreIsStuckUntilPowerOn : Prop :=
  ∀ (s : State) (f : Fault), s.status = .faulted f →
    step s = .fault f ∧ (∀ o : HostOp, o ≠ .powerOn → (o.after s).status = .faulted f) ∧
      (HostOp.powerOn.after s).status = .running

/-- 60_exceptions.md section 1 (R118 to R125; the record is decision D23): the causes of the five faults. Two of the kinds,
AddressOutOfRange and KeyIndexOutOfRange, exist by decisions D1 and D8 (log 10), the check of all N sprite bytes is D20 and the
order of the phases and of failing addresses D24. A step of a running core that faults does so for the cause its kind names, with
that cause's record. -/
def Obligations.EveryFaultHasTheCauseItsKindNames : Prop :=
  ∀ (s t : State) (f : Fault), s.status = .running → step s = .next t → t.status = .faulted f →
    match f with
    | .stackUnderflow _ op => RunsNext s .op00EE ∧ s.sp = 0 ∧ op = 0x00EE
    | .stackOverflow _ op => ∃ nnn, RunsNext s (.op2NNN nnn) ∧ s.sp = 16 ∧ op = asmNNN 0x2 nnn
    | .unknownInstruction _ op => op = s.nextOpcode ∧ s.pc.toNat ≤ 0xFFE ∧
        ((∃ e, decode op = .error e) ∨ ∃ nnn, decode op = .ok (.op0NNN nnn))
    | .addressOutOfRange _ op a => a > 0xFFF ∧
        ((op = none ∧ 0xFFE < s.pc.toNat ∧ a = max s.pc.toNat 0x1000) ∨
         (op = some s.nextOpcode ∧ a = max s.index.toNat 0x1000 ∧
          ((∃ x y n, RunsNext s (.opDXYN x y n) ∧ 0 < n.toNat ∧ 0xFFF < s.index.toNat + n.toNat - 1) ∨
           (∃ x, RunsNext s (.opFX33 x) ∧ 0xFFF < s.index.toNat + 2) ∨
           (∃ x, (RunsNext s (.opFX55 x) ∨ RunsNext s (.opFX65 x)) ∧ 0xFFF < s.index.toNat + x.toNat))))
    | .keyIndexOutOfRange _ op k => op = s.nextOpcode ∧ 15 < k.toNat ∧
        ∃ x, (RunsNext s (.opEX9E x) ∨ RunsNext s (.opEXA1 x)) ∧ k = s.readV x

/-! ## The invariant -/

/-- 10_state.md section 3 (R21, an inference the spec marks as its own) and 20_memory.md: every step from a state in which memory
is in canonical form, PC is at most 0x10FE and every stack entry at most 0x0FFE leads to such a state. -/
def Obligations.StepKeepsMemoryCanonicalAndPcBounded : Prop :=
  ∀ s t : State, Inv s → step s = .next t → Inv t

/-- The state at power-on meets the invariant (10_state.md section 10). -/
def Obligations.PowerOnStateMeetsTheInvariant : Prop := Inv State.reset

/-- 70_reset_and_hazards.md section 2, 10_state.md section 11: every host operation keeps the invariant, a failing load included.
-/
def Obligations.HostOperationsKeepMemoryCanonicalAndPcBounded : Prop :=
  ∀ (s : State) (o : HostOp), Inv s → Inv (o.after s)

/-- 10_state.md section 3 (R21, an inference the spec marks as its own) and 20_memory.md: whatever programs the host loads and
however it steps the core, PC never exceeds 0x10FE, no stack entry exceeds 0x0FFE, and memory stays in canonical form. -/
def Obligations.EveryReachableStateMeetsTheInvariant : Prop := ∀ s : State, Reachable s → Inv s

/-! ## Whole-machine rules: who may write what -/

/-- 10_state.md section 6: the key flags are mutated only by the host, through `set_key` (and power-on): no step changes one. -/
def Obligations.KeysAreMutatedOnlyByTheHost : Prop :=
  (∀ s t : State, step s = .next t → ∀ k, t.readKey k = s.readKey k) ∧
  ∀ (s : State) (o : HostOp), o ≠ .powerOn → ∀ k,
    (o.after s).readKey k = match o with | .setKey j pressed => if k = j then pressed else s.readKey k | _ => s.readKey k

/-- 10_state.md section 8 (R31) and 41_alu.md section 4 (R96; the generator is OPEN, decision D13, log 3): only CXNN advances the
generator, once per execution; no other step and no host operation but power-on changes it. -/
def Obligations.OnlyTheRandomInstructionAdvancesTheGenerator : Prop :=
  (∀ s t : State, step s = .next t →
    (∀ x nn, RunsNext s (.opCXNN x nn) → t.rng = (Config.rngNext s.rng).1) ∧
    ((∀ x nn, ¬ RunsNext s (.opCXNN x nn)) → t.rng = s.rng)) ∧
  ∀ (s : State) (o : HostOp), o ≠ .powerOn → (o.after s).rng = s.rng

/-- 40_control_flow.md to 44_keys_timers.md: an instruction that raises no fault changes only the elements of the state its rule
writes (`mayWrite`), each read the way the machine reads it. -/
def Obligations.InstructionsWriteOnlyWhatTheirRulesName : Prop :=
  ∀ (i : Instr) (s t : State), s.status = .running → exec i s = .next t → t.status = .running → SameExcept (mayWrite i) s t

/-- 10_state.md section 2: the writers of the general registers. An instruction changes no register but those named for it
(`mayWriteV`: V[X], VF for the flag-producing six, V0..VX for FX65, FX0A only when a key is latched), and no host operation but
power-on changes one. -/
def Obligations.GeneralRegistersHaveOnlyTheirNamedWriters : Prop :=
  (∀ (i : Instr) (s t : State) (r : RegIdx), exec i s = .next t → mayWriteV i s r = false → t.readV r = s.readV r) ∧
  ∀ (s : State) (o : HostOp) (r : RegIdx), o ≠ .powerOn → (o.after s).readV r = s.readV r

/-- 20_memory.md section 1 (the access table): every byte outside the bytes an instruction stores to (`storeSpan`, which FX33 and
FX55 check and write: I..I+2, I..I+X; nothing for every other instruction) reads as before. -/
def Obligations.OnlyTheStoredBytesOfMemoryChange : Prop :=
  ∀ (i : Instr) (s t : State), exec i s = .next t →
    ∀ a, (a < (storeSpan i s).1 ∨ (storeSpan i s).1 + (storeSpan i s).2 ≤ a) → t.mem.read a = s.mem.read a

/-! ## Control flow (40_control_flow.md) -/

/-- 40_control_flow.md (00EE; decision D5): with a nonempty stack, 00EE goes to the top entry plus 2, counts it off and leaves it
in place; nothing else changes. -/
def Obligations.ReturnGoesTwoPastTheTopStackEntry : Prop :=
  ∀ s : State, ∀ h : s.sp.val ≠ 0, ∃ t, exec .op00EE s = .next t ∧
    t.pc = s.stack[s.sp.val - 1]'(by have := s.sp.isLt; omega) + 2 ∧ t.sp.val = s.sp.val - 1 ∧ SameExcept [.pc, .sp] s t

/-- 60_exceptions.md section 1 (StackUnderflow; the record and the unchanged state are decisions D23 and D2): 00EE with an empty
stack fails with StackUnderflow. -/
def Obligations.ReturnOnAnEmptyStackFaults : Prop :=
  ∀ s : State, s.sp = 0 →
    exec .op00EE s =
      .next { s with status := .faulted (.stackUnderflow s.pc 0x00EE), beep := false, redraw := false }

/-- 40_control_flow.md (0NNN; 0x0000 by decision D3, the record and the unchanged state by D23 and D2): the 0NNN case executes
nothing and always raises UnknownInstruction with the word fetched. -/
def Obligations.MachineCodeCallWordsFault : Prop :=
  ∀ (nnn : Addr12) (s : State),
    exec (.op0NNN nnn) s =
      .next { s with status := .faulted (.unknownInstruction s.pc (nnn.setWidth 16)), beep := false, redraw := false }

/-- R76: 1NNN sets PC to NNN and changes nothing else. -/
def Obligations.JumpSetsPcToTheAddress : Prop :=
  ∀ (nnn : Addr12) (s : State), encode (.op1NNN nnn) &&& 0xF000 = 0x1000 ∧
    ∃ t, exec (.op1NNN nnn) s = .next t ∧ t.pc.toNat = nnn.toNat ∧ SameExcept [.pc] s t

/-- 40_control_flow.md (2NNN; decision D5: the pushed value is the call's own address): with room on the stack, 2NNN pushes PC,
counts the entry and goes to NNN; no other entry and nothing else changes. -/
def Obligations.CallPushesItsOwnAddressAndJumps : Prop :=
  ∀ (nnn : Addr12) (s : State), s.sp.val < 16 → ∃ t, exec (.op2NNN nnn) s = .next t ∧
    t.pc.toNat = nnn.toNat ∧ t.sp.val = s.sp.val + 1 ∧
    (∀ k : Fin 16, t.stack[k] = if k.val = s.sp.val then s.pc else s.stack[k]) ∧ SameExcept [.pc, .sp, .stack] s t

/-- 60_exceptions.md section 1 (StackOverflow; the record and the unchanged state are decisions D23 and D2): a call on a full
stack fails with StackOverflow; from an empty stack, 16 consecutive calls succeed, to whatever targets, and the 17th fails. -/
def Obligations.SixteenCallsSucceedAndTheSeventeenthOverflows : Prop :=
  (∀ (nnn : Addr12) (s : State), s.sp = 16 →
    exec (.op2NNN nnn) s =
      .next { s with status := .faulted (.stackOverflow s.pc (asmNNN 0x2 nnn)), beep := false, redraw := false }) ∧
  ∀ (s : State) (targets : List Addr12) (last : Addr12), s.status = .running → s.sp = 0 → targets.length = 16 →
    ∃ t, execAll (targets.map .op2NNN) s = .next t ∧ t.status = .running ∧ t.sp = 16 ∧
      exec (.op2NNN last) t =
        .next { t with status := .faulted (.stackOverflow t.pc (asmNNN 0x2 last)), beep := false, redraw := false }

/-- 40_control_flow.md (00EE, 2NNN; decision D5): push and pop are mirror images. A call and then a return, with room on the
stack, restore PC to its value plus 2, SP, and everything but the stack entry that was above the top. -/
def Obligations.CallThenReturnResumesAfterTheCall : Prop :=
  ∀ (nnn : Addr12) (s : State), s.sp.val < 16 → ∃ t u, exec (.op2NNN nnn) s = .next t ∧ exec .op00EE t = .next u ∧
    u.pc = s.pc + 2 ∧ (∀ k : Fin 16, k.val ≠ s.sp.val → u.stack[k] = s.stack[k]) ∧ SameExcept [.pc, .stack] s u

/-- R78, R79, R80, R81: the four register skips go to PC + 4 where their condition holds and to PC + 2 where it fails, and change
nothing else. -/
def Obligations.RegisterSkipsCompareAndSkip : Prop :=
  ∀ (x y : RegIdx) (nn : Byte) (s : State),
    (encode (.op3XNN x nn) &&& 0xF000 = 0x3000 ∧ ∃ t, exec (.op3XNN x nn) s = .next t ∧
      t.pc = (if (s.readV x).toNat = nn.toNat then s.pc + 4 else s.pc + 2) ∧ SameExcept [.pc] s t) ∧
    (encode (.op4XNN x nn) &&& 0xF000 = 0x4000 ∧ ∃ t, exec (.op4XNN x nn) s = .next t ∧
      t.pc = (if (s.readV x).toNat ≠ nn.toNat then s.pc + 4 else s.pc + 2) ∧ SameExcept [.pc] s t) ∧
    (encode (.op5XY0 x y) &&& 0xF00F = 0x5000 ∧ ∃ t, exec (.op5XY0 x y) s = .next t ∧
      t.pc = (if (s.readV x).toNat = (s.readV y).toNat then s.pc + 4 else s.pc + 2) ∧ SameExcept [.pc] s t) ∧
    (encode (.op9XY0 x y) &&& 0xF00F = 0x9000 ∧ ∃ t, exec (.op9XY0 x y) s = .next t ∧
      t.pc = (if (s.readV x).toNat ≠ (s.readV y).toNat then s.pc + 4 else s.pc + 2) ∧ SameExcept [.pc] s t)

/-- 40_control_flow.md (BNNN; decision D34: the sum is not reduced to 12 bits): BNNN goes to NNN + V0 and changes nothing else. -/
def Obligations.JumpWithOffsetAddsV0Unreduced : Prop :=
  ∀ (nnn : Addr12) (s : State), ∃ t, exec (.opBNNN nnn) s = .next t ∧
    t.pc.toNat = nnn.toNat + (s.readV 0).toNat ∧ SameExcept [.pc] s t

/-! ## Loads, ALU, random byte (41_alu.md) -/

/-- R85, R86, R87: load immediate, add immediate modulo 256 with no flag, and copy write V[X] alone (VF too where X = 15), advance
PC by 2 and change nothing else. -/
def Obligations.LoadAddImmediateAndCopyWriteOnlyVX : Prop :=
  ∀ (x y : RegIdx) (nn : Byte) (s : State),
    (encode (.op6XNN x nn) &&& 0xF000 = 0x6000 ∧
      ∃ t, exec (.op6XNN x nn) s = .next t ∧ (∀ r, t.readV r = if r = x then nn else s.readV r) ∧
      t.pc = s.pc + 2 ∧ SameExcept [.v, .pc] s t) ∧
    (encode (.op7XNN x nn) &&& 0xF000 = 0x7000 ∧
      ∃ t, exec (.op7XNN x nn) s = .next t ∧ (t.readV x).toNat = ((s.readV x).toNat + nn.toNat) % 256 ∧
      (∀ r, r ≠ x → t.readV r = s.readV r) ∧ t.pc = s.pc + 2 ∧ SameExcept [.v, .pc] s t) ∧
    (encode (.op8XY0 x y) &&& 0xF00F = 0x8000 ∧
      ∃ t, exec (.op8XY0 x y) s = .next t ∧ (∀ r, t.readV r = if r = x then s.readV y else s.readV r) ∧
      t.pc = s.pc + 2 ∧ SameExcept [.v, .pc] s t)

/-- 41_alu.md section 3 (8XY1, 8XY2, 8XY3; decision D22: VF is not cleared): bitwise or, and, exclusive or of VX and VY, bit by
bit, into V[X]; no other register changes, VF included unless X = 15. -/
def Obligations.LogicOperationsWriteOnlyVX : Prop :=
  ∀ (x y : RegIdx) (s : State),
    (∃ t, exec (.op8XY1 x y) s = .next t ∧
      (∀ k < 8, (t.readV x).getLsbD k = ((s.readV x).getLsbD k || (s.readV y).getLsbD k)) ∧
      (∀ r, r ≠ x → t.readV r = s.readV r) ∧ t.pc = s.pc + 2 ∧ SameExcept [.v, .pc] s t) ∧
    (∃ t, exec (.op8XY2 x y) s = .next t ∧
      (∀ k < 8, (t.readV x).getLsbD k = ((s.readV x).getLsbD k && (s.readV y).getLsbD k)) ∧
      (∀ r, r ≠ x → t.readV r = s.readV r) ∧ t.pc = s.pc + 2 ∧ SameExcept [.v, .pc] s t) ∧
    (∃ t, exec (.op8XY3 x y) s = .next t ∧
      (∀ k < 8, (t.readV x).getLsbD k = xor ((s.readV x).getLsbD k) ((s.readV y).getLsbD k)) ∧
      (∀ r, r ≠ x → t.readV r = s.readV r) ∧ t.pc = s.pc + 2 ∧ SameExcept [.v, .pc] s t)

/-- R91: 8XY4 writes the sum modulo 256 to V[X] and then VF, 1 iff the sum exceeds 255; the flag wins where X = 15, and Y = 15
adds VF's old value. -/
def Obligations.AddWithCarryWritesTheFlagLast : Prop :=
  ∀ (x y : RegIdx) (s : State), encode (.op8XY4 x y) &&& 0xF00F = 0x8004 ∧
    ∃ t, exec (.op8XY4 x y) s = .next t ∧
    (∀ r, (t.readV r).toNat =
      if r = 15 then (if (s.readV x).toNat + (s.readV y).toNat > 255 then 1 else 0)
      else if r = x then ((s.readV x).toNat + (s.readV y).toNat) % 256
      else (s.readV r).toNat) ∧
    t.pc = s.pc + 2 ∧ SameExcept [.v, .pc] s t

/-- R92, R94: 8XY5 writes VX - VY and 8XY7 VY - VX, modulo 256, and then VF, 1 iff there is no borrow; the flag wins where X = 15.
-/
def Obligations.SubtractionsWriteTheNoBorrowFlagLast : Prop :=
  ∀ (x y : RegIdx) (s : State),
    (encode (.op8XY5 x y) &&& 0xF00F = 0x8005 ∧ ∃ t, exec (.op8XY5 x y) s = .next t ∧
      (∀ r, (t.readV r).toNat =
        if r = 15 then (if (s.readV x).toNat ≥ (s.readV y).toNat then 1 else 0)
        else if r = x then ((s.readV x).toNat + 256 - (s.readV y).toNat) % 256
        else (s.readV r).toNat) ∧
      t.pc = s.pc + 2 ∧ SameExcept [.v, .pc] s t) ∧
    (encode (.op8XY7 x y) &&& 0xF00F = 0x8007 ∧ ∃ t, exec (.op8XY7 x y) s = .next t ∧
      (∀ r, (t.readV r).toNat =
        if r = 15 then (if (s.readV y).toNat ≥ (s.readV x).toNat then 1 else 0)
        else if r = x then ((s.readV y).toNat + 256 - (s.readV x).toNat) % 256
        else (s.readV r).toNat) ∧
      t.pc = s.pc + 2 ∧ SameExcept [.v, .pc] s t)

/-- R93: 8XY6 writes VY shifted right by one to V[X] and then VF, VY's bit 0 before the shift; the flag wins where X = 15. -/
def Obligations.ShiftRightOfVYWritesTheLostBitLast : Prop :=
  ∀ (x y : RegIdx) (s : State), encode (.op8XY6 x y) &&& 0xF00F = 0x8006 ∧
    ∃ t, exec (.op8XY6 x y) s = .next t ∧
    (∀ r, (t.readV r).toNat =
      if r = 15 then (s.readV y).toNat % 2
      else if r = x then (s.readV y).toNat / 2
      else (s.readV r).toNat) ∧
    t.pc = s.pc + 2 ∧ SameExcept [.v, .pc] s t

/-- 41_alu.md section 3 (8XYE; decision D7: VF is normalized, log 7): 8XYE writes VY shifted left by one, modulo 256, to V[X] and
then VF, VY's bit 7 before the shift; under RawBit the flag would be that bit in place. -/
def Obligations.ShiftLeftOfVYWritesTheLostBitLast : Prop :=
  (∀ (x y : RegIdx) (s : State), ∃ t, exec (.op8XYE x y) s = .next t ∧
    (∀ r, (t.readV r).toNat =
      if r = 15 then (s.readV y).toNat / 128
      else if r = x then (s.readV y).toNat * 2 % 256
      else (s.readV r).toNat) ∧
    t.pc = s.pc + 2 ∧ SameExcept [.v, .pc] s t) ∧
  ∀ v : Byte, (shlFlag .normalized v).toNat = v.toNat / 128 ∧ (shlFlag .rawBit v).toNat = v.toNat / 128 * 128

/-- R97 (for every generator: `Config.rngNext` is opaque, log 3): CXNN draws exactly one 32-bit word, also where NN is 0, writes
its low byte AND NN to V[X], and changes nothing else. -/
def Obligations.RandomByteIsMaskedAndDrawnOnce : Prop :=
  ∀ (x : RegIdx) (nn : Byte) (s : State), encode (.opCXNN x nn) &&& 0xF000 = 0xC000 ∧
    ∃ t, exec (.opCXNN x nn) s = .next t ∧
    (∀ k < 8, (t.readV x).getLsbD k = ((Config.rngNext s.rng).2.getLsbD k && nn.getLsbD k)) ∧
    (∀ r, r ≠ x → t.readV r = s.readV r) ∧ t.rng = (Config.rngNext s.rng).1 ∧
    t.pc = s.pc + 2 ∧ SameExcept [.v, .rng, .pc] s t

/-! ## Index register and memory (42_index_memory.md) -/

/-- R98: ANNN writes NNN to I, advances PC by 2 and changes nothing else. -/
def Obligations.SetIndexWritesTheAddress : Prop :=
  ∀ (nnn : Addr12) (s : State), encode (.opANNN nnn) &&& 0xF000 = 0xA000 ∧
    ∃ t, exec (.opANNN nnn) s = .next t ∧ t.index.toNat = nnn.toNat ∧
    t.pc = s.pc + 2 ∧ SameExcept [.index, .pc] s t

/-- 42_index_memory.md (FX1E by decision D22, no flag; FX29 by decision D32, VX not masked): FX1E adds VX to I modulo 2^16, FX29
writes 0x050 + VX*5 to I; PC advances by 2 and nothing else changes, VF included. -/
def Obligations.AddToIndexWrapsAndGlyphAddressIsUnmasked : Prop :=
  ∀ (x : RegIdx) (s : State),
    (∃ t, exec (.opFX1E x) s = .next t ∧ t.index.toNat = (s.index.toNat + (s.readV x).toNat) % 65536 ∧
      t.pc = s.pc + 2 ∧ SameExcept [.index, .pc] s t) ∧
    (∃ t, exec (.opFX29 x) s = .next t ∧ t.index.toNat = 0x050 + (s.readV x).toNat * 5 ∧
      t.pc = s.pc + 2 ∧ SameExcept [.index, .pc] s t)

/-- 42_index_memory.md (FX33; the fault is decisions D1 and D21, log 10): FX33 stores the hundreds, tens and ones of VX at I, I+1,
I+2 and changes no other byte and nothing else but PC; where I + 2 > 0xFFF it raises AddressOutOfRange with no byte written.
Memory in canonical form is an invariant of the machine. -/
def Obligations.BcdStoresThreeDigitsOrFaults : Prop :=
  ∀ (x : RegIdx) (s : State), s.mem.wf = true →
    (s.index.toNat + 2 ≤ 0xFFF → ∃ t, exec (.opFX33 x) s = .next t ∧
      (t.mem.read s.index.toNat).toNat = (s.readV x).toNat / 100 ∧
      (t.mem.read (s.index.toNat + 1)).toNat = (s.readV x).toNat / 10 % 10 ∧
      (t.mem.read (s.index.toNat + 2)).toNat = (s.readV x).toNat % 10 ∧
      (∀ a, (a < s.index.toNat ∨ s.index.toNat + 2 < a) → t.mem.read a = s.mem.read a) ∧
      t.pc = s.pc + 2 ∧ SameExcept [.mem, .pc] s t) ∧
    (0xFFF < s.index.toNat + 2 →
      exec (.opFX33 x) s = .next { s with
        status := .faulted (.addressOutOfRange s.pc (some (asmXNN 0xF x 0x33)) (max s.index.toNat 0x1000))
        beep := false
        redraw := false })

/-- 42_index_memory.md (FX55; the fault is decisions D1 and D21, log 10): FX55 stores V0..VX at I..I+X and changes no other byte,
I advances by X + 1; where I + X > 0xFFF it raises AddressOutOfRange with no byte written and I unchanged. Memory in canonical
form is an invariant of the machine. -/
def Obligations.StoreRegistersWritesTheBlockOrFaults : Prop :=
  ∀ (x : RegIdx) (s : State), s.mem.wf = true →
    (s.index.toNat + x.toNat ≤ 0xFFF → ∃ t, exec (.opFX55 x) s = .next t ∧
      (∀ r : RegIdx, r.toNat ≤ x.toNat → t.mem.read (s.index.toNat + r.toNat) = s.readV r) ∧
      (∀ a, (a < s.index.toNat ∨ s.index.toNat + x.toNat < a) → t.mem.read a = s.mem.read a) ∧
      t.index.toNat = s.index.toNat + x.toNat + 1 ∧ t.pc = s.pc + 2 ∧ SameExcept [.mem, .index, .pc] s t) ∧
    (0xFFF < s.index.toNat + x.toNat →
      exec (.opFX55 x) s = .next { s with
        status := .faulted (.addressOutOfRange s.pc (some (asmXNN 0xF x 0x55)) (max s.index.toNat 0x1000))
        beep := false
        redraw := false })

/-- 42_index_memory.md (FX65; the fault is decisions D1 and D21, log 10): FX65 loads V0..VX from I..I+X and changes no other
register and no byte, I advances by X + 1; where I + X > 0xFFF it raises AddressOutOfRange with no register written and I
unchanged. -/
def Obligations.LoadRegistersReadsTheBlockOrFaults : Prop :=
  ∀ (x : RegIdx) (s : State),
    (s.index.toNat + x.toNat ≤ 0xFFF → ∃ t, exec (.opFX65 x) s = .next t ∧
      (∀ r : RegIdx, t.readV r = if r.toNat ≤ x.toNat then s.mem.read (s.index.toNat + r.toNat) else s.readV r) ∧
      t.index.toNat = s.index.toNat + x.toNat + 1 ∧ t.pc = s.pc + 2 ∧ SameExcept [.v, .index, .pc] s t) ∧
    (0xFFF < s.index.toNat + x.toNat →
      exec (.opFX65 x) s = .next { s with
        status := .faulted (.addressOutOfRange s.pc (some (asmXNN 0xF x 0x65)) (max s.index.toNat 0x1000))
        beep := false
        redraw := false })

/-- 42_index_memory.md (the corner cases of FX65): storing V0..VX and then loading them from the same base, whatever registers
changed in between, restores them, and I advances by exactly X + 1 in each direction. -/
def Obligations.StoreThenLoadRestoresTheRegisters : Prop :=
  ∀ (x : RegIdx) (s t w : State), s.mem.wf = true → s.index.toNat + x.toNat ≤ 0xFFF → exec (.opFX55 x) s = .next t →
    w.mem = t.mem → w.index = s.index →
    ∃ u, exec (.opFX65 x) w = .next u ∧ (∀ r : RegIdx, r.toNat ≤ x.toNat → u.readV r = s.readV r) ∧
      (∀ r : RegIdx, x.toNat < r.toNat → u.readV r = w.readV r) ∧
      t.index.toNat = s.index.toNat + x.toNat + 1 ∧ u.index = t.index

/-! ## Display (43_display.md) -/

/-- R106: 00E0 turns every cell off, marks redraw, advances PC by 2 and changes nothing else, VF included. -/
def Obligations.ClearTurnsEveryCellOff : Prop :=
  ∀ s : State, encode .op00E0 = 0x00E0 ∧
    ∃ t, exec .op00E0 s = .next t ∧ (∀ x y, t.grid.cell x y = false) ∧ t.redraw = true ∧
    t.pc = s.pc + 2 ∧ SameExcept [.grid, .redraw, .pc] s t

/-- 43_display.md section 3 (DXYN; the bit order is decision D15, log 8, the wrapping edge decision D6, log 6, the address check
decision D20): with its N bytes in memory, DXYN turns over exactly the cells its set bits strike, VF is 1 iff one of them was on
and 0 otherwise, redraw is marked, PC advances by 2 and nothing else changes; VX and VY are read before VF is written. -/
def Obligations.DrawTogglesTheStruckCellsAndFlagsCollision : Prop :=
  ∀ (x y : RegIdx) (n : Nibble) (s : State), (n.toNat = 0 ∨ s.index.toNat + n.toNat ≤ 0x1000) →
    let struck : Fin 64 → Fin 32 → Prop := fun px py => ∃ r c : Nat, r < n.toNat ∧ c < 8 ∧
      (s.mem.read (s.index.toNat + r)).getLsbD (7 - c) = true ∧
      ((s.readV x).toNat + c) % 64 = px.val ∧ ((s.readV y).toNat + r) % 32 = py.val
    ∃ t, exec (.opDXYN x y n) s = .next t ∧
      (∀ px py, struck px py → t.grid.cell px py = !s.grid.cell px py) ∧
      (∀ px py, ¬ struck px py → t.grid.cell px py = s.grid.cell px py) ∧
      (t.readV 15 = 0 ∨ t.readV 15 = 1) ∧
      (t.readV 15 = 1 ↔ ∃ px py, struck px py ∧ s.grid.cell px py = true) ∧
      (∀ r, r ≠ 15 → t.readV r = s.readV r) ∧ t.redraw = true ∧ t.pc = s.pc + 2 ∧
      SameExcept [.grid, .v, .redraw, .pc] s t

/-- 43_display.md section 3 (DXYN; decision D20: all N bytes are checked): where N > 0 and I + N - 1 > 0xFFF, DXYN raises
AddressOutOfRange for the lowest failing address, with the grid and VF unchanged. -/
def Obligations.DrawPastTheEndOfMemoryFaults : Prop :=
  ∀ (x y : RegIdx) (n : Nibble) (s : State), 0 < n.toNat → 0xFFF < s.index.toNat + n.toNat - 1 →
    exec (.opDXYN x y n) s = .next { s with
      status := .faulted (.addressOutOfRange s.pc (some (asmXYN 0xD x y n)) (max s.index.toNat 0x1000))
      beep := false
      redraw := false }

/-- 43_display.md section 4 (R109, an inference the spec marks as its own): drawing the same sprite twice at the same origin
restores every cell, and the second draw sets VF exactly where the sprite strikes a cell that was off before the first. The cells
struck are those of the wrapping edge (D6, log 6) and of bit 7 leftmost (D15, log 8). The second state may differ from the first
draw's result in anything but the grid, the sprite's bytes, I, VX and VY. -/
def Obligations.DrawingTheSameSpriteTwiceRestoresEveryCell : Prop :=
  ∀ (x y : RegIdx) (n : Nibble) (s t w u : State), (n.toNat = 0 ∨ s.index.toNat + n.toNat ≤ 0x1000) →
    let struck : Fin 64 → Fin 32 → Prop := fun px py => ∃ r c : Nat, r < n.toNat ∧ c < 8 ∧
      (s.mem.read (s.index.toNat + r)).getLsbD (7 - c) = true ∧
      ((s.readV x).toNat + c) % 64 = px.val ∧ ((s.readV y).toNat + r) % 32 = py.val
    exec (.opDXYN x y n) s = .next t → w.grid = t.grid → w.index = s.index →
    (∀ r < n.toNat, w.mem.read (s.index.toNat + r) = s.mem.read (s.index.toNat + r)) →
    w.readV x = s.readV x → w.readV y = s.readV y → exec (.opDXYN x y n) w = .next u →
    (∀ px py, u.grid.cell px py = s.grid.cell px py) ∧
    (u.readV 15 = 1 ↔ ∃ px py, struck px py ∧ s.grid.cell px py = false)

/-- 43_display.md section 4 (R109, an inference the spec marks as its own): under EITHER edge policy, a blit followed by the same
blit restores the grid; the first collides iff a visible set bit strikes a cell that is on, the second iff one strikes a cell that
was off. Which cell a set bit strikes (`SpriteStrikes`: bit 7 - c at column c) is the spec's decision D15 from general knowledge
(PRESUMED, log 8). -/
def Obligations.BlitIsItsOwnInverseUnderEitherEdgePolicy : Prop :=
  ∀ (edge : Config.SpriteEdge) (vx vy : Nat) (rows : List Byte) (g : Grid), rows.length ≤ 15 →
    (blit edge vx vy rows (blit edge vx vy rows g).1).1 = g ∧
    ((blit edge vx vy rows g).2 = true ↔ ∃ px py, SpriteStrikes edge vx vy rows px py ∧ g.cell px py = true) ∧
    ((blit edge vx vy rows (blit edge vx vy rows g).1).2 = true ↔
      ∃ px py, SpriteStrikes edge vx vy rows px py ∧ g.cell px py = false)

/-! ## Keys and timers (44_keys_timers.md) -/

/-- 44_keys_timers.md (EX9E, EXA1; decision D8: an index above 15 is a fault, never masked, log 10): with VX at most 15, EX9E
skips where key VX is pressed and EXA1 where it is not, changing nothing but PC; above 15 both raise KeyIndexOutOfRange with VX in
the record. -/
def Obligations.KeySkipsReadTheFlagOrFault : Prop :=
  ∀ (x : RegIdx) (s : State),
    (∀ k : KeyIdx, (s.readV x).toNat = k.toNat →
      (∃ t, exec (.opEX9E x) s = .next t ∧ t.pc = (if s.readKey k = true then s.pc + 4 else s.pc + 2) ∧ SameExcept [.pc] s t) ∧
      (∃ t, exec (.opEXA1 x) s = .next t ∧ t.pc = (if s.readKey k = false then s.pc + 4 else s.pc + 2) ∧
        SameExcept [.pc] s t)) ∧
    (15 < (s.readV x).toNat →
      exec (.opEX9E x) s = .next { s with
        status := .faulted (.keyIndexOutOfRange s.pc (asmXNN 0xE x 0x9E) (s.readV x)), beep := false, redraw := false } ∧
      exec (.opEXA1 x) s = .next { s with
        status := .faulted (.keyIndexOutOfRange s.pc (asmXNN 0xE x 0xA1) (s.readV x)), beep := false, redraw := false })

/-- R114: FX07 writes DT, as it is before this step's tick, to V[X], advances PC by 2 and changes nothing else; the tick at the
end of the step then happens as usual. -/
def Obligations.ReadTimerGivesTheValueBeforeTheTick : Prop :=
  ∀ (x : RegIdx) (s : State), encode (.opFX07 x) &&& 0xF0FF = 0xF007 ∧
    ∃ t, exec (.opFX07 x) s = .next t ∧
    (∀ r, t.readV r = if r = x then s.dt else s.readV r) ∧ t.pc = s.pc + 2 ∧ SameExcept [.v, .pc] s t ∧
    ∀ op, (t.endOfStep op).dt.toNat = s.dt.toNat - 1

/-- 44_keys_timers.md (FX0A; the tick of a waiting step is decision D10): with a key latched FX0A writes it to V[X] and advances
PC by 2; with none it changes nothing at all, PC included. In both cases it completes: the end of step follows, and clears the
latch. -/
def Obligations.KeyWaitTakesTheLatchedKeyOrHolds : Prop :=
  ∀ (x : RegIdx) (s : State),
    (∀ k : KeyIdx, s.latch = some k → ∃ t, exec (.opFX0A x) s = .next t ∧
      (t.readV x).toNat = k.toNat ∧ (∀ r, r ≠ x → t.readV r = s.readV r) ∧ t.pc = s.pc + 2 ∧ SameExcept [.v, .pc] s t) ∧
    (s.latch = none → exec (.opFX0A x) s = .next s) ∧
    (RunsNext s (.opFX0A x) → ∃ t, step s = .next t ∧ t.status = .running ∧ t.latch = none ∧
      t.dt.toNat = s.dt.toNat - 1 ∧ t.st.toNat = s.st.toNat - 1)

/-- 44_keys_timers.md (the corner cases of FX0A): with no key latched, FX0A holds PC over any number of steps, the timers running
down; once the host then reports a key pressed, the next step takes it, advances PC by 2 and leaves the latch empty. -/
def Obligations.KeyWaitHoldsForAnyNumberOfStepsUntilAKeyIsPressed : Prop :=
  ∀ (n : Nat) (x : RegIdx) (s : State), RunsNext s (.opFX0A x) → s.latch = none →
    ∃ t, stepN n s = .next t ∧ t.pc = s.pc ∧ (∀ r, t.readV r = s.readV r) ∧
      t.dt.toNat = s.dt.toNat - n ∧ t.st.toNat = s.st.toNat - n ∧
      ∀ k : KeyIdx, ∃ u, step (setKey k true t) = .next u ∧ (u.readV x).toNat = k.toNat ∧ u.pc = s.pc + 2 ∧ u.latch = none

/-- 44_keys_timers.md (FX15, FX18, and their corner cases, inferences the spec marks as its own): the execute phase writes VX to
DT, or to ST, advances PC by 2 and changes nothing else; the timer is ticked in the same step, so it ends at VX - 1 or 0, and ST
set to 1 beeps in the step that set it. -/
def Obligations.TimerWritesTakeVXAndAreTickedInTheSameStep : Prop :=
  ∀ (x : RegIdx) (s : State),
    (∃ t, exec (.opFX15 x) s = .next t ∧ t.dt = s.readV x ∧ t.pc = s.pc + 2 ∧ SameExcept [.dt, .pc] s t) ∧
    (∃ t, exec (.opFX18 x) s = .next t ∧ t.st = s.readV x ∧ t.pc = s.pc + 2 ∧ SameExcept [.st, .pc] s t) ∧
    (RunsNext s (.opFX15 x) → ∃ t, step s = .next t ∧ t.status = .running ∧ t.dt.toNat = (s.readV x).toNat - 1) ∧
    (RunsNext s (.opFX18 x) → ∃ t, step s = .next t ∧ t.status = .running ∧ t.st.toNat = (s.readV x).toNat - 1 ∧
      (t.beep = true ↔ s.readV x = 1))

/-! ## Power-on and the host operations (70_reset_and_hazards.md, 10_state.md) -/

/-- 10_state.md section 10 (R34): memory and stack as the source gives them; every other value is the spec's decision D11 (log 4),
the font bytes are decision D14 (log 5), `beep` and `redraw` are this model's (log 2). Power-on leads here from any state. -/
def Obligations.PowerOnLeavesTheValuesOfTheTable : Prop :=
  (∀ s : State, HostOp.powerOn.after s = State.reset) ∧
  (∀ a, State.reset.mem.read a = if 0x050 ≤ a ∧ a < 0x0A0 then Params.font.getD (a - 0x050) 0 else 0) ∧
  Params.font.length = 80 ∧
  (∀ k : Fin 16, State.reset.stack[k] = 0) ∧ State.reset.sp = 0 ∧ (∀ r, State.reset.readV r = 0) ∧
  State.reset.index = 0 ∧ State.reset.pc = 0x200 ∧ State.reset.dt = 0 ∧ State.reset.st = 0 ∧
  (∀ k, State.reset.readKey k = false) ∧ State.reset.latch = none ∧ (∀ x y, State.reset.grid.cell x y = false) ∧
  State.reset.opcodeReg = 0 ∧ State.reset.status = .running ∧ State.reset.rng = Config.rngSeed

/-- 70_reset_and_hazards.md section 2 (`install_fontset`; decision D28: a shorter blob writes only its own length): at most 80
bytes go to 0x050 upwards and nothing else changes; a longer blob fails with CapacityExceeded and changes nothing. -/
def Obligations.InstallFontsetCopiesOrFails : Prop :=
  ∀ (bytes : List Byte) (s : State), s.mem.wf = true →
    (bytes.length ≤ 80 → ∃ t, installFontset bytes s = .ok t ∧
      (∀ k, ∀ h : k < bytes.length, t.mem.read (0x050 + k) = bytes[k]) ∧
      (∀ a, (a < 0x050 ∨ 0x050 + bytes.length ≤ a) → t.mem.read a = s.mem.read a) ∧ SameExcept [.mem] s t) ∧
    (80 < bytes.length → installFontset bytes s = .error .capacityExceeded ∧ (HostOp.installFontset bytes).after s = s)

/-- R141, R142: a ROM of at most 3584 bytes loads, a zero-length one too; a longer one fails with CapacityExceeded and leaves the
state from before the call. -/
def Obligations.LoadProgramFailsExactlyAboveItsCapacity : Prop :=
  ∀ (bytes : List Byte) (s : State),
    (bytes.length ≤ 3584 → ∃ t, loadProgram bytes s = .ok t ∧ (HostOp.loadProgram bytes).after s = t) ∧
    (3584 < bytes.length → loadProgram bytes s = .error .capacityExceeded ∧ (HostOp.loadProgram bytes).after s = s)

/-- 70_reset_and_hazards.md section 2 (R143, R144; decision D12: the stack entries are zeroed and everything unnamed is kept): a
ROM that fits goes to 0x200 upwards, PC becomes 0x200, I 0, the stack empty and zero; no other byte and nothing else changes, and
a running core then fetches the ROM's first two bytes, the first one high. -/
def Obligations.LoadProgramCopiesAndResetsPcIndexAndStack : Prop :=
  ∀ (bytes : List Byte) (s t : State), s.mem.wf = true → loadProgram bytes s = .ok t →
    (∀ k, ∀ h : k < bytes.length, t.mem.read (0x200 + k) = bytes[k]) ∧
    (∀ a, (a < 0x200 ∨ 0x200 + bytes.length ≤ a) → t.mem.read a = s.mem.read a) ∧
    t.pc = 0x200 ∧ t.index = 0 ∧ t.sp = 0 ∧ (∀ k : Fin 16, t.stack[k] = 0) ∧
    SameExcept [.mem, .pc, .index, .stack, .sp] s t ∧
    ∀ h : 2 ≤ bytes.length, t.nextOpcode.toNat = bytes[0].toNat * 256 + bytes[1].toNat

/-- 10_state.md section 11 (`set_key`; decision D9: a release leaves the latch, a later press replaces an earlier one): the named
flag takes the given value, the latch takes the key when it is pressed, and nothing else changes. -/
def Obligations.SetKeySetsTheFlagAndLatchesAPress : Prop :=
  ∀ (k : KeyIdx) (pressed : Bool) (s : State),
    (setKey k pressed s).readKey k = pressed ∧ (∀ j, j ≠ k → (setKey k pressed s).readKey j = s.readKey j) ∧
    (setKey k true s).latch = some k ∧ (setKey k false s).latch = s.latch ∧
    SameExcept [.keys, .latch] s (setKey k pressed s)
end

