-- ==== Sys2Proof/Laws/Decode.lean ====
section
/-! SUPPORT. The decoder's fields and the encoder's words against each other: every field of an assembled word, and every word
assembled again from its fields. A proof about decode or encode cites these and never unfolds a bit operation. -/

namespace Sys2Proof

/-! ## Fields and assembled words as numbers -/

theorem toNat_cat {m n : Nat} (a : BitVec m) (b : BitVec n) : (a ++ b).toNat = a.toNat * 2 ^ n + b.toNat := by
  rw [BitVec.toNat_append, ← Nat.shiftLeft_add_eq_or_of_lt b.isLt, Nat.shiftLeft_eq]

theorem toNat_asmNNN (n1 : Nibble) (nnn : Addr12) : (asmNNN n1 nnn).toNat = n1.toNat * 4096 + nnn.toNat := by
  have e : (asmNNN n1 nnn).toNat = (n1 ++ nnn).toNat := rfl
  rw [e, toNat_cat]; omega

theorem toNat_asmXNN (n1 x : Nibble) (nn : Byte) :
    (asmXNN n1 x nn).toNat = n1.toNat * 4096 + x.toNat * 256 + nn.toNat := by
  have e : (asmXNN n1 x nn).toNat = (n1 ++ x ++ nn).toNat := rfl
  rw [e, toNat_cat, toNat_cat]; omega

theorem toNat_asmXYN (n1 x y n : Nibble) :
    (asmXYN n1 x y n).toNat = n1.toNat * 4096 + x.toNat * 256 + y.toNat * 16 + n.toNat := by
  have e : (asmXYN n1 x y n).toNat = (n1 ++ x ++ y ++ n).toNat := rfl
  rw [e, toNat_cat, toNat_cat, toNat_cat]; omega

theorem toNat_opcodeOfBytes (hi lo : Byte) : (opcodeOfBytes hi lo).toNat = hi.toNat * 256 + lo.toNat := by
  have e : (opcodeOfBytes hi lo).toNat = (hi ++ lo).toNat := rfl
  rw [e, toNat_cat]; omega

theorem toNat_fieldN1 (op : Word) : (fieldN1 op).toNat = op.toNat / 4096 := by
  simp only [fieldN1, BitVec.extractLsb'_toNat, Nat.shiftRight_eq_div_pow]; omega

theorem toNat_fieldX (op : Word) : (fieldX op).toNat = op.toNat / 256 % 16 := by
  simp only [fieldX, BitVec.extractLsb'_toNat, Nat.shiftRight_eq_div_pow]

theorem toNat_fieldY (op : Word) : (fieldY op).toNat = op.toNat / 16 % 16 := by
  simp only [fieldY, BitVec.extractLsb'_toNat, Nat.shiftRight_eq_div_pow]

theorem toNat_fieldN (op : Word) : (fieldN op).toNat = op.toNat % 16 := by
  simp only [fieldN, BitVec.extractLsb'_toNat, Nat.shiftRight_eq_div_pow]; omega

theorem toNat_fieldNN (op : Word) : (fieldNN op).toNat = op.toNat % 256 := by
  simp only [fieldNN, BitVec.extractLsb'_toNat, Nat.shiftRight_eq_div_pow]; omega

theorem toNat_fieldNNN (op : Word) : (fieldNNN op).toNat = op.toNat % 4096 := by
  simp only [fieldNNN, BitVec.extractLsb'_toNat, Nat.shiftRight_eq_div_pow]; omega

/-! ## Every field of an assembled word -/

@[simp] theorem fieldN1_asmNNN (n1 : Nibble) (nnn : Addr12) : fieldN1 (asmNNN n1 nnn) = n1 := by
  apply BitVec.eq_of_toNat_eq; rw [toNat_fieldN1, toNat_asmNNN]; omega

@[simp] theorem fieldNNN_asmNNN (n1 : Nibble) (nnn : Addr12) : fieldNNN (asmNNN n1 nnn) = nnn := by
  apply BitVec.eq_of_toNat_eq; rw [toNat_fieldNNN, toNat_asmNNN]; omega

@[simp] theorem fieldN1_asmXNN (n1 x : Nibble) (nn : Byte) : fieldN1 (asmXNN n1 x nn) = n1 := by
  apply BitVec.eq_of_toNat_eq; rw [toNat_fieldN1, toNat_asmXNN]; omega

@[simp] theorem fieldX_asmXNN (n1 x : Nibble) (nn : Byte) : fieldX (asmXNN n1 x nn) = x := by
  apply BitVec.eq_of_toNat_eq; rw [toNat_fieldX, toNat_asmXNN]; omega

@[simp] theorem fieldNN_asmXNN (n1 x : Nibble) (nn : Byte) : fieldNN (asmXNN n1 x nn) = nn := by
  apply BitVec.eq_of_toNat_eq; rw [toNat_fieldNN, toNat_asmXNN]; omega

@[simp] theorem fieldN1_asmXYN (n1 x y n : Nibble) : fieldN1 (asmXYN n1 x y n) = n1 := by
  apply BitVec.eq_of_toNat_eq; rw [toNat_fieldN1, toNat_asmXYN]; omega

@[simp] theorem fieldX_asmXYN (n1 x y n : Nibble) : fieldX (asmXYN n1 x y n) = x := by
  apply BitVec.eq_of_toNat_eq; rw [toNat_fieldX, toNat_asmXYN]; omega

@[simp] theorem fieldY_asmXYN (n1 x y n : Nibble) : fieldY (asmXYN n1 x y n) = y := by
  apply BitVec.eq_of_toNat_eq; rw [toNat_fieldY, toNat_asmXYN]; omega

@[simp] theorem fieldN_asmXYN (n1 x y n : Nibble) : fieldN (asmXYN n1 x y n) = n := by
  apply BitVec.eq_of_toNat_eq; rw [toNat_fieldN, toNat_asmXYN]; omega

/-! ## A word assembled again from its fields -/

@[simp] theorem asmNNN_fields (op : Word) : asmNNN (fieldN1 op) (fieldNNN op) = op := by
  apply BitVec.eq_of_toNat_eq; rw [toNat_asmNNN, toNat_fieldN1, toNat_fieldNNN]; omega

@[simp] theorem asmXNN_fields (op : Word) : asmXNN (fieldN1 op) (fieldX op) (fieldNN op) = op := by
  apply BitVec.eq_of_toNat_eq; rw [toNat_asmXNN, toNat_fieldN1, toNat_fieldX, toNat_fieldNN]; omega

@[simp] theorem asmXYN_fields (op : Word) : asmXYN (fieldN1 op) (fieldX op) (fieldY op) (fieldN op) = op := by
  apply BitVec.eq_of_toNat_eq; rw [toNat_asmXYN, toNat_fieldN1, toNat_fieldX, toNat_fieldY, toNat_fieldN]; omega

/-- A word is its high byte and its low byte (20_memory.md R46). -/
@[simp] theorem opcodeOfBytes_halves (op : Word) : opcodeOfBytes (op.extractLsb' 8 8) (op.extractLsb' 0 8) = op := by
  apply BitVec.eq_of_toNat_eq
  rw [toNat_opcodeOfBytes]
  simp only [BitVec.extractLsb'_toNat, Nat.shiftRight_eq_div_pow]
  omega

/-! ## The masks of the opcode map -/

theorem getLsbD_asmNNN (n1 : Nibble) (nnn : Addr12) (k : Nat) :
    (asmNNN n1 nnn).getLsbD k = if k < 12 then nnn.getLsbD k else n1.getLsbD (k - 12) := by
  have e : (asmNNN n1 nnn).getLsbD k = (n1 ++ nnn).getLsbD k := rfl
  rw [e, BitVec.getLsbD_append]

theorem getLsbD_asmXNN (n1 x : Nibble) (nn : Byte) (k : Nat) :
    (asmXNN n1 x nn).getLsbD k = if k < 8 then nn.getLsbD k else
      if k - 8 < 4 then x.getLsbD (k - 8) else n1.getLsbD (k - 8 - 4) := by
  have e : (asmXNN n1 x nn).getLsbD k = (n1 ++ x ++ nn).getLsbD k := rfl
  rw [e, BitVec.getLsbD_append, BitVec.getLsbD_append]

theorem getLsbD_asmXYN (n1 x y n : Nibble) (k : Nat) :
    (asmXYN n1 x y n).getLsbD k = if k < 4 then n.getLsbD k else
      if k - 4 < 4 then y.getLsbD (k - 4) else
      if k - 4 - 4 < 4 then x.getLsbD (k - 4 - 4) else n1.getLsbD (k - 4 - 4 - 4) := by
  have e : (asmXYN n1 x y n).getLsbD k = (n1 ++ x ++ y ++ n).getLsbD k := rfl
  rw [e, BitVec.getLsbD_append, BitVec.getLsbD_append, BitVec.getLsbD_append]

/-- The mask 0xF000 keeps N1. -/
theorem and_F000 (op : Word) : op &&& 0xF000#16 = asmNNN (fieldN1 op) 0 := by
  apply BitVec.eq_of_getLsbD_eq
  intro k hk
  rw [getLsbD_asmNNN]
  interval_cases k <;> simp [fieldN1]

/-- The mask 0xF00F keeps N1 and N. -/
theorem and_F00F (op : Word) : op &&& 0xF00F#16 = asmXYN (fieldN1 op) 0 0 (fieldN op) := by
  apply BitVec.eq_of_getLsbD_eq
  intro k hk
  rw [getLsbD_asmXYN]
  interval_cases k <;> simp [fieldN1, fieldN]

/-- The mask 0xF0FF keeps N1 and NN. -/
theorem and_F0FF (op : Word) : op &&& 0xF0FF#16 = asmXNN (fieldN1 op) 0 (fieldNN op) := by
  apply BitVec.eq_of_getLsbD_eq
  intro k hk
  rw [getLsbD_asmXNN]
  interval_cases k <;> simp [fieldN1, fieldNN]

/-- Two ADDR words are equal exactly where their fields are. -/
theorem asmNNN_inj {a b : Nibble} {c d : Addr12} : asmNNN a c = asmNNN b d ↔ a = b ∧ c = d :=
  ⟨fun h => ⟨by simpa using congrArg fieldN1 h, by simpa using congrArg fieldNNN h⟩, fun ⟨h, h'⟩ => by rw [h, h']⟩

/-- Two REG_IMM words are equal exactly where their fields are. -/
theorem asmXNN_inj {a b x x' : Nibble} {c d : Byte} : asmXNN a x c = asmXNN b x' d ↔ a = b ∧ x = x' ∧ c = d :=
  ⟨fun h => ⟨by simpa using congrArg fieldN1 h, by simpa using congrArg fieldX h, by simpa using congrArg fieldNN h⟩,
    fun ⟨h, h', h''⟩ => by rw [h, h', h'']⟩

/-- Two REG_REG words are equal exactly where their fields are. -/
theorem asmXYN_inj {a b x x' y y' c d : Nibble} : asmXYN a x y c = asmXYN b x' y' d ↔ a = b ∧ x = x' ∧ y = y' ∧ c = d :=
  ⟨fun h => ⟨by simpa using congrArg fieldN1 h, by simpa using congrArg fieldX h, by simpa using congrArg fieldY h,
      by simpa using congrArg fieldN h⟩, fun ⟨h, h', h'', h'''⟩ => by rw [h, h', h'', h''']⟩

/-! ## Decode, family by family (30_encoding.md R60) -/

/-- The sixteen families. -/
theorem nibble_cases (a : Nibble) : a = 0x0#4 ∨ a = 0x1#4 ∨ a = 0x2#4 ∨ a = 0x3#4 ∨ a = 0x4#4 ∨ a = 0x5#4 ∨ a = 0x6#4 ∨
    a = 0x7#4 ∨ a = 0x8#4 ∨ a = 0x9#4 ∨ a = 0xA#4 ∨ a = 0xB#4 ∨ a = 0xC#4 ∨ a = 0xD#4 ∨ a = 0xE#4 ∨ a = 0xF#4 := by
  revert a; decide

variable {op : Word}

theorem decode_family0 (h : fieldN1 op = 0x0#4) :
    decode op = .ok (if op = 0x00E0#16 then .op00E0 else if op = 0x00EE#16 then .op00EE else .op0NNN (fieldNNN op)) := by
  rw [decode, h]; rfl

theorem decode_family1 (h : fieldN1 op = 0x1#4) :
    decode op = .ok (.op1NNN (fieldNNN op)) := by
  rw [decode, h]; rfl

theorem decode_family2 (h : fieldN1 op = 0x2#4) :
    decode op = .ok (.op2NNN (fieldNNN op)) := by
  rw [decode, h]; rfl

theorem decode_family3 (h : fieldN1 op = 0x3#4) :
    decode op = .ok (.op3XNN (fieldX op) (fieldNN op)) := by
  rw [decode, h]; rfl

theorem decode_family4 (h : fieldN1 op = 0x4#4) :
    decode op = .ok (.op4XNN (fieldX op) (fieldNN op)) := by
  rw [decode, h]; rfl

theorem decode_family5 (h : fieldN1 op = 0x5#4) :
    decode op = if fieldN op = 0x0#4 then .ok (.op5XY0 (fieldX op) (fieldY op)) else .error .family5 := by
  rw [decode, h]; rfl

theorem decode_family6 (h : fieldN1 op = 0x6#4) :
    decode op = .ok (.op6XNN (fieldX op) (fieldNN op)) := by
  rw [decode, h]; rfl

theorem decode_family7 (h : fieldN1 op = 0x7#4) :
    decode op = .ok (.op7XNN (fieldX op) (fieldNN op)) := by
  rw [decode, h]; rfl

theorem decode_family8 (h : fieldN1 op = 0x8#4) :
    decode op = decode8 (fieldX op) (fieldY op) (fieldN op) := by
  rw [decode, h]; rfl

theorem decode_family9 (h : fieldN1 op = 0x9#4) :
    decode op = if fieldN op = 0x0#4 then .ok (.op9XY0 (fieldX op) (fieldY op)) else .error .family9 := by
  rw [decode, h]; rfl

theorem decode_familyA (h : fieldN1 op = 0xA#4) :
    decode op = .ok (.opANNN (fieldNNN op)) := by
  rw [decode, h]; rfl

theorem decode_familyB (h : fieldN1 op = 0xB#4) :
    decode op = .ok (.opBNNN (fieldNNN op)) := by
  rw [decode, h]; rfl

theorem decode_familyC (h : fieldN1 op = 0xC#4) :
    decode op = .ok (.opCXNN (fieldX op) (fieldNN op)) := by
  rw [decode, h]; rfl

theorem decode_familyD (h : fieldN1 op = 0xD#4) :
    decode op = .ok (.opDXYN (fieldX op) (fieldY op) (fieldN op)) := by
  rw [decode, h]; rfl

theorem decode_familyE (h : fieldN1 op = 0xE#4) :
    decode op = decodeE (fieldX op) (fieldNN op) := by
  rw [decode, h]; rfl

theorem decode_familyF (h : fieldN1 op = 0xF#4) :
    decode op = decodeF (fieldX op) (fieldNN op) := by
  rw [decode, h]; rfl

end Sys2Proof
end

