-- ==== Sys2Proof/Laws/Grid.lean ====
section
/-! SUPPORT. The laws of the pixel grid and the sprite blit (43_display.md R107 to R109): a blit toggles exactly the cells its
visible set bits strike, each once, and reports a collision exactly where one of them was on. -/

namespace Sys2Proof.Machine

/-! ## Cells -/

theorem Grid.ext_cell {g h : Grid} (e : ∀ x y, g.cell x y = h.cell x y) : g = h := by
  apply Vector.ext
  intro y hy
  apply Vector.ext
  intro x hx
  exact e ⟨x, hx⟩ ⟨y, hy⟩

@[simp] theorem Grid.cell_clear (x : Fin 64) (y : Fin 32) : Grid.clear.cell x y = false := by
  simp [Grid.cell, Grid.clear]

/-- Toggling a cell turns that cell over and leaves every other cell alone. -/
theorem Grid.cell_toggle (g : Grid) (x px : Fin 64) (y py : Fin 32) :
    (g.toggle x y).cell px py = xor (g.cell px py) (decide (x = px ∧ y = py)) := by
  simp only [Grid.cell, Grid.toggle, Fin.getElem_fin, Vector.getElem_set]
  by_cases hy : y = py
  · subst hy
    by_cases hx : x = px
    · subst hx; simp
    · have : (x : Nat) ≠ px := fun e => hx (Fin.ext e)
      simp [hx, this]
  · have : (y : Nat) ≠ py := fun e => hy (Fin.ext e)
    simp [hy, this]

/-! ## The cells a blit strikes, in the order it strikes them -/

/-- The cell a column of a sprite row strikes, if its bit is set and it is visible. -/
def columnHit (edge : Config.SpriteEdge) (vx w : Nat) (row : Byte) (c : Nat) : Option (Fin 64 × Fin 32) :=
  if row.getLsbD (7 - c) then place edge (vx + c) w else none

/-- The cells a sprite row strikes. -/
def rowHits (edge : Config.SpriteEdge) (vx w : Nat) (row : Byte) : List (Fin 64 × Fin 32) :=
  (List.range 8).filterMap (columnHit edge vx w row)

/-- The cells a sprite strikes. -/
def spriteHits (edge : Config.SpriteEdge) (vx w : Nat) : List Byte → List (Fin 64 × Fin 32)
  | [] => []
  | row :: rows => rowHits edge vx w row ++ spriteHits edge vx (w + 1) rows

/-- One strike: the collision so far, then the toggle (43_display.md R108). -/
def strike (acc : Grid × Bool) (p : Fin 64 × Fin 32) : Grid × Bool := (acc.1.toggle p.1 p.2, acc.2 || acc.1.cell p.1 p.2)

theorem blitRow_eq_strikes (edge : Config.SpriteEdge) (vx w : Nat) (row : Byte) (acc : Grid × Bool) :
    blitRow edge vx w row acc = (rowHits edge vx w row).foldl strike acc := by
  unfold blitRow rowHits
  generalize List.range 8 = l
  induction l generalizing acc with
  | nil => rfl
  | cons c l ih =>
    simp only [List.foldl_cons, List.filterMap_cons, columnHit]
    by_cases hb : row.getLsbD (7 - c) = true
    · simp only [hb, if_true, blitPixel]
      cases place edge (vx + c) w with
      | none => exact ih acc
      | some p => exact ih _
    · simp only [hb]
      exact ih acc

theorem blitRows_eq_strikes (edge : Config.SpriteEdge) (vx w : Nat) (rows : List Byte) (acc : Grid × Bool) :
    blitRows edge vx w rows acc = (spriteHits edge vx w rows).foldl strike acc := by
  induction rows generalizing w acc with
  | nil => rfl
  | cons row rows ih => simp only [blitRows, spriteHits, List.foldl_append, ih, blitRow_eq_strikes]

/-- Striking a list of distinct cells turns over exactly those cells. -/
theorem cell_strikes {hits : List (Fin 64 × Fin 32)} (hd : hits.Nodup) (acc : Grid × Bool) (px : Fin 64) (py : Fin 32) :
    (hits.foldl strike acc).1.cell px py = xor (acc.1.cell px py) (decide ((px, py) ∈ hits)) := by
  induction hits generalizing acc with
  | nil => simp
  | cons p hits ih =>
    obtain ⟨x, y⟩ := p
    rw [List.nodup_cons] at hd
    rw [List.foldl_cons, ih hd.2]
    simp only [strike, Grid.cell_toggle, List.mem_cons, Prod.mk.injEq]
    by_cases h1 : px = x ∧ py = y
    · obtain ⟨rfl, rfl⟩ := h1
      simp [hd.1]
    · have : ¬ (x = px ∧ y = py) := fun ⟨a, b⟩ => h1 ⟨a.symm, b.symm⟩
      simp [h1, this]

/-- Striking a list of distinct cells collides exactly where one of them was on. -/
theorem collision_strikes {hits : List (Fin 64 × Fin 32)} (hd : hits.Nodup) (acc : Grid × Bool) :
    (hits.foldl strike acc).2 = true ↔ acc.2 = true ∨ ∃ p ∈ hits, acc.1.cell p.1 p.2 = true := by
  induction hits generalizing acc with
  | nil => simp
  | cons p hits ih =>
    rw [List.nodup_cons] at hd
    rw [List.foldl_cons, ih hd.2]
    simp only [strike, Bool.or_eq_true, List.mem_cons, exists_eq_or_imp, or_assoc]
    have : (∃ q ∈ hits, (acc.1.toggle p.1 p.2).cell q.1 q.2 = true) ↔ ∃ q ∈ hits, acc.1.cell q.1 q.2 = true := by
      refine exists_congr fun q => and_congr_right fun hq => ?_
      have : ¬ (p.1 = q.1 ∧ p.2 = q.2) := fun ⟨a, b⟩ => hd.1 (Prod.ext a b ▸ hq)
      simp [Grid.cell_toggle, this]
    rw [this]

/-! ## A sprite does not overlap itself -/

/-- Visible placements of two columns of one row, or of two rows, within the size of the grid are different cells. -/
theorem place_inj {edge : Config.SpriteEdge} {vx w c c' r r' : Nat} {p : Fin 64 × Fin 32}
    (h : place edge (vx + c) (w + r) = some p) (h' : place edge (vx + c') (w + r') = some p)
    (hc : c < 8) (hc' : c' < 8) (hr : r < 32) (hr' : r' < 32) : c = c' ∧ r = r' := by
  cases edge with
  | wrap =>
    simp only [place, Option.some.injEq] at h h'
    have e := h.trans h'.symm
    simp only [Prod.mk.injEq, Fin.mk.injEq] at e
    omega
  | clip =>
    simp only [place] at h h'
    split at h
    · split at h'
      · have e := (Option.some.inj h).trans (Option.some.inj h').symm
        simp only [Prod.mk.injEq, Fin.mk.injEq] at e
        omega
      · simp at h'
    · simp at h

theorem mem_rowHits {edge : Config.SpriteEdge} {vx w : Nat} {row : Byte} {p : Fin 64 × Fin 32} :
    p ∈ rowHits edge vx w row ↔ ∃ c, c < 8 ∧ row.getLsbD (7 - c) = true ∧ place edge (vx + c) w = some p := by
  simp only [rowHits, List.mem_filterMap, List.mem_range, columnHit]
  refine exists_congr fun c => and_congr_right fun _ => ?_
  split <;> simp_all

theorem mem_spriteHits {edge : Config.SpriteEdge} {vx w : Nat} {rows : List Byte} {p : Fin 64 × Fin 32} :
    p ∈ spriteHits edge vx w rows ↔ SpriteStrikes edge vx w rows p.1 p.2 := by
  induction rows generalizing w with
  | nil => simp [spriteHits, SpriteStrikes]
  | cons row rows ih =>
    simp only [spriteHits, List.mem_append, mem_rowHits, ih, SpriteStrikes]
    constructor
    · rintro (⟨c, h⟩ | ⟨r, c, hr, h⟩)
      · exact ⟨0, c, by simp, by simpa using h⟩
      · refine ⟨r + 1, c, by simpa using hr, ?_⟩
        rw [show w + (r + 1) = w + 1 + r by omega]
        simpa using h
    · rintro ⟨r, c, hr, h⟩
      cases r with
      | zero => exact .inl ⟨c, by simpa using h⟩
      | succ r =>
        refine .inr ⟨r, c, by simpa using hr, ?_⟩
        rw [show w + (r + 1) = w + 1 + r by omega] at h
        simpa using h

theorem nodup_rowHits (edge : Config.SpriteEdge) (vx w : Nat) (row : Byte) : (rowHits edge vx w row).Nodup := by
  rw [rowHits, List.Nodup, List.pairwise_filterMap]
  refine List.Pairwise.imp_of_mem ?_ (List.nodup_range (n := 8))
  rintro c c' hc hc' hne p hp p' hp' rfl
  rw [List.mem_range] at hc hc'
  simp only [columnHit] at hp hp'
  split at hp
  · split at hp'
    · exact hne (place_inj (w := w) (r := 0) (r' := 0) hp hp' hc hc' (by omega) (by omega)).1
    · simp at hp'
  · simp at hp

/-- A sprite of at most 32 rows strikes no cell twice, under either edge policy. -/
theorem nodup_spriteHits {edge : Config.SpriteEdge} {vx w k : Nat} {rows : List Byte} (h : k + rows.length ≤ 32) :
    (spriteHits edge vx (w + k) rows).Nodup := by
  induction rows generalizing k with
  | nil => simp [spriteHits]
  | cons row rows ih =>
    simp only [List.length_cons] at h
    simp only [spriteHits]
    refine List.nodup_append'.2 ⟨nodup_rowHits edge vx (w + k) row, ih (k := k + 1) (by omega), ?_⟩
    intro p hp hp'
    obtain ⟨c, hc, -, hpl⟩ := mem_rowHits.1 hp
    obtain ⟨r, c', hr, hc', -, hpl'⟩ := mem_spriteHits.1 hp'
    rw [show w + k + 1 + r = w + (k + 1 + r) by omega] at hpl'
    have := (place_inj hpl hpl' hc hc' (by omega) (by omega)).2
    omega

/-! ## The blit as a whole -/

/-- A blit turns over exactly the cells the sprite strikes. -/
theorem cell_blit {edge : Config.SpriteEdge} {vx vy : Nat} {rows : List Byte} (h : rows.length ≤ 32) (g : Grid)
    (px : Fin 64) (py : Fin 32) :
    (blit edge vx vy rows g).1.cell px py = true ↔ (g.cell px py = true ∧ ¬ SpriteStrikes edge vx vy rows px py) ∨
      (g.cell px py = false ∧ SpriteStrikes edge vx vy rows px py) := by
  have hd : (spriteHits edge vx vy rows).Nodup := nodup_spriteHits (k := 0) (by omega)
  rw [blit, blitRows_eq_strikes, cell_strikes hd]
  have := mem_spriteHits (edge := edge) (vx := vx) (w := vy) (rows := rows) (p := (px, py))
  simp only at this
  rw [← this]
  cases g.cell px py <;> simp

/-- A cell the sprite strikes is turned over. -/
theorem cell_blit_struck {edge : Config.SpriteEdge} {vx vy : Nat} {rows : List Byte} (h : rows.length ≤ 32) (g : Grid)
    {px : Fin 64} {py : Fin 32} (hs : SpriteStrikes edge vx vy rows px py) :
    (blit edge vx vy rows g).1.cell px py = !g.cell px py := by
  have := cell_blit (edge := edge) (vx := vx) (vy := vy) h g px py
  rw [Bool.eq_iff_iff, this]
  simp [hs]

/-- A cell the sprite does not strike is as it was. -/
theorem cell_blit_other {edge : Config.SpriteEdge} {vx vy : Nat} {rows : List Byte} (h : rows.length ≤ 32) (g : Grid)
    {px : Fin 64} {py : Fin 32} (hs : ¬ SpriteStrikes edge vx vy rows px py) :
    (blit edge vx vy rows g).1.cell px py = g.cell px py := by
  have := cell_blit (edge := edge) (vx := vx) (vy := vy) h g px py
  rw [Bool.eq_iff_iff, this]
  simp [hs]

/-- A blit collides exactly where the sprite strikes a cell that was on. -/
theorem collision_blit {edge : Config.SpriteEdge} {vx vy : Nat} {rows : List Byte} (h : rows.length ≤ 32) (g : Grid) :
    (blit edge vx vy rows g).2 = true ↔ ∃ px py, SpriteStrikes edge vx vy rows px py ∧ g.cell px py = true := by
  have hd : (spriteHits edge vx vy rows).Nodup := nodup_spriteHits (k := 0) (by omega)
  rw [blit, blitRows_eq_strikes, collision_strikes hd]
  constructor
  · rintro (h | ⟨p, hp, hg⟩)
    · simp at h
    · exact ⟨p.1, p.2, mem_spriteHits.1 hp, hg⟩
  · rintro ⟨px, py, hs, hg⟩
    exact .inr ⟨(px, py), mem_spriteHits.2 hs, hg⟩

/-- A sprite with no row changes no cell and collides with none (43_display.md R108, N = 0). -/
@[simp] theorem blit_nil (edge : Config.SpriteEdge) (vx vy : Nat) (g : Grid) : blit edge vx vy [] g = (g, false) := rfl

end Sys2Proof.Machine
end

