-- ==== Sys2Proof/Laws/Memory.lean ====
section
/-! SUPPORT. The laws of memory: the canonical form is kept, a read after a write, equal memories are equal lists, and what the
address check answers. -/

namespace Sys2Proof.Machine

/-! ## The canonical form -/

/-- The facts the canonical form says of a memory's first entry and its tail. -/
theorem Memory.wfAbove_cons {lo : Option Nat} {a : Nat} {b : Byte} {m : Memory} :
    Memory.wfAbove lo ((a, b) :: m) = true ↔
      (∀ l ∈ lo, l < a) ∧ a < memSize ∧ b ≠ powerOnByte a ∧ Memory.wfAbove (some a) m = true := by
  cases lo <;> simp [Memory.wfAbove, and_assoc]

/-- A lower bound may be lowered. -/
theorem Memory.wfAbove_mono {m : Memory} {lo : Option Nat} {k : Nat} (h : Memory.wfAbove (some k) m = true)
    (hlo : ∀ l ∈ lo, l ≤ k) : Memory.wfAbove lo m = true := by
  cases m with
  | nil => rfl
  | cons c m =>
    rw [Memory.wfAbove_cons] at h ⊢
    obtain ⟨h1, h2, h3, h4⟩ := h
    have := h1 k rfl
    exact ⟨fun l hl => Nat.lt_of_le_of_lt (hlo l hl) this, h2, h3, h4⟩

/-- An address no entry can hold reads as its power-on value. -/
theorem Memory.read_of_wfAbove {m : Memory} {k a : Nat} (h : Memory.wfAbove (some k) m = true) (ha : a ≤ k) :
    m.read a = powerOnByte a := by
  induction m generalizing k with
  | nil => rfl
  | cons c m ih =>
    rw [Memory.wfAbove_cons] at h
    obtain ⟨h1, -, -, h4⟩ := h
    have hk := h1 k rfl
    have : c.1 ≠ a := by omega
    simp only [Memory.read, this, if_false]
    exact ih h4 (by omega)

/-- Listing a byte in front keeps the form. -/
theorem Memory.wfAbove_list {m : Memory} {lo : Option Nat} {a : Nat} {b : Byte} (h : Memory.wfAbove (some a) m = true)
    (hlo : ∀ l ∈ lo, l < a) (ha : a < memSize) : Memory.wfAbove lo (Memory.list a b m) = true := by
  unfold Memory.list
  split
  · exact Memory.wfAbove_mono h fun l hl => (hlo l hl).le
  · rename_i hb
    exact Memory.wfAbove_cons.2 ⟨hlo, ha, hb, h⟩

/-- A write above a bound keeps the form above that bound. -/
theorem Memory.wfAbove_write {m : Memory} {lo : Option Nat} {a : Nat} {b : Byte} (h : Memory.wfAbove lo m = true)
    (hlo : ∀ l ∈ lo, l < a) (ha : a < memSize) : Memory.wfAbove lo (m.write a b) = true := by
  induction m generalizing lo with
  | nil => exact Memory.wfAbove_list rfl hlo ha
  | cons c m ih =>
    obtain ⟨k, c⟩ := c
    have h' := Memory.wfAbove_cons.1 h
    obtain ⟨h1, h2, h3, h4⟩ := h'
    simp only [Memory.write]
    split
    · rename_i hak
      exact Memory.wfAbove_list (Memory.wfAbove_cons.2 ⟨by simpa using hak, h2, h3, h4⟩) hlo ha
    · split
      · rename_i _ hak
        subst hak
        exact Memory.wfAbove_list h4 h1 h2
      · rename_i h5 h6
        exact Memory.wfAbove_cons.2 ⟨h1, h2, h3, ih h4 (by simp; omega)⟩

/-- Writing a byte of an address that exists keeps the canonical form. -/
theorem Memory.wf_write {m : Memory} {a : Nat} {b : Byte} (h : m.wf = true) (ha : a < memSize) : (m.write a b).wf = true :=
  Memory.wfAbove_write h (by simp) ha

/-- Writing a run of bytes that exist keeps the canonical form. -/
theorem Memory.wf_writeBytes {bs : List Byte} {m : Memory} {base : Nat} (h : m.wf = true) (hb : base + bs.length ≤ memSize) :
    (m.writeBytes base bs).wf = true := by
  induction bs generalizing m base with
  | nil => exact h
  | cons b bs ih =>
    simp only [List.length_cons] at hb
    exact ih (Memory.wf_write h (by omega)) (by omega)

/-! ## Reads after writes -/

/-- Listing a byte where nothing below is listed makes that address read as it. -/
theorem Memory.read_list_self {m : Memory} {a : Nat} {b : Byte} (h : Memory.wfAbove (some a) m = true) :
    (Memory.list a b m).read a = b := by
  unfold Memory.list
  split
  · rename_i hb
    rw [Memory.read_of_wfAbove h (Nat.le_refl a), hb]
  · simp [Memory.read]

/-- Listing a byte leaves every other address alone. -/
theorem Memory.read_list_other {m : Memory} {a x : Nat} {b : Byte} (hx : x ≠ a) : (Memory.list a b m).read x = m.read x := by
  unfold Memory.list
  split
  · rfl
  · simp [Memory.read, Ne.symm hx]

/-- A read after a write to the same address gives the byte written. -/
theorem Memory.read_write_self {m : Memory} {lo : Option Nat} {a : Nat} {b : Byte} (h : Memory.wfAbove lo m = true) :
    (m.write a b).read a = b := by
  induction m generalizing lo with
  | nil => exact Memory.read_list_self rfl
  | cons c m ih =>
    obtain ⟨k, c⟩ := c
    obtain ⟨h1, h2, h3, h4⟩ := Memory.wfAbove_cons.1 h
    simp only [Memory.write]
    split
    · rename_i hak
      exact Memory.read_list_self (Memory.wfAbove_cons.2 ⟨by simpa using hak, h2, h3, h4⟩)
    · split
      · rename_i _ hak
        subst hak
        exact Memory.read_list_self h4
      · rename_i h5 h6
        simp only [Memory.read, Ne.symm h6, if_false]
        exact ih h4

/-- A write leaves every other address alone. -/
theorem Memory.read_write_other {m : Memory} {a x : Nat} {b : Byte} (hx : x ≠ a) : (m.write a b).read x = m.read x := by
  induction m with
  | nil => exact Memory.read_list_other hx
  | cons c m ih =>
    obtain ⟨k, c⟩ := c
    simp only [Memory.write]
    split
    · exact Memory.read_list_other hx
    · split
      · rename_i _ hak
        subst hak
        simp only [Memory.read_list_other hx, Memory.read, Ne.symm hx, if_false]
      · simp only [Memory.read, ih]

/-- Outside a written run, memory reads as before. -/
theorem Memory.read_writeBytes_outside {bs : List Byte} {m : Memory} {base x : Nat}
    (hx : x < base ∨ base + bs.length ≤ x) : (m.writeBytes base bs).read x = m.read x := by
  induction bs generalizing m base with
  | nil => rfl
  | cons b bs ih =>
    simp only [List.length_cons] at hx
    simp only [Memory.writeBytes]
    rw [ih (by omega), Memory.read_write_other (by omega)]

/-- Inside a written run, memory reads as the bytes written. -/
theorem Memory.read_writeBytes_inside {bs : List Byte} {m : Memory} {base : Nat} (h : m.wf = true)
    (hb : base + bs.length ≤ memSize) (k : Nat) (hk : k < bs.length) :
    (m.writeBytes base bs).read (base + k) = bs[k] := by
  induction bs generalizing m base k with
  | nil => simp at hk
  | cons b bs ih =>
    simp only [List.length_cons] at hb hk
    simp only [Memory.writeBytes]
    cases k with
    | zero =>
      rw [Memory.read_writeBytes_outside (by omega)]
      exact Memory.read_write_self h
    | succ k =>
      have := ih (m := m.write base b) (base := base + 1) (Memory.wf_write h (by omega)) (by omega) k (by omega)
      rw [show base + (k + 1) = base + 1 + k by omega, this]
      rfl

/-- Reading a run of bytes, byte by byte. -/
theorem Memory.getElem_readBytes {m : Memory} {base n k : Nat} (hk : k < (m.readBytes base n).length) :
    (m.readBytes base n)[k] = m.read (base + k) := by
  simp [Memory.readBytes]

@[simp] theorem Memory.length_readBytes (m : Memory) (base n : Nat) : (m.readBytes base n).length = n := by
  simp [Memory.readBytes]

/-! ## Equal memories are equal lists -/

/-- In canonical form, two memories that read alike are the same list. -/
theorem Memory.ext_of_wfAbove {m m' : Memory} {lo : Option Nat} (h : Memory.wfAbove lo m = true)
    (h' : Memory.wfAbove lo m' = true) (e : ∀ a, m.read a = m'.read a) : m = m' := by
  induction m generalizing lo m' with
  | nil =>
    cases m' with
    | nil => rfl
    | cons c m' =>
      obtain ⟨-, -, h3, -⟩ := Memory.wfAbove_cons.1 h'
      exact absurd (by simpa [Memory.read] using (e c.1).symm) h3
  | cons c m ih =>
    obtain ⟨k, b⟩ := c
    obtain ⟨h1, h2, h3, h4⟩ := Memory.wfAbove_cons.1 h
    cases m' with
    | nil => exact absurd (by simpa [Memory.read] using e k) h3
    | cons c' m' =>
      obtain ⟨k', b'⟩ := c'
      obtain ⟨h1', h2', h3', h4'⟩ := Memory.wfAbove_cons.1 h'
      rcases Nat.lt_trichotomy k k' with hlt | heq | hgt
      · have hk := e k
        have hne : k' ≠ k := by omega
        simp only [Memory.read, if_true, hne, if_false] at hk
        exact absurd (hk.trans (Memory.read_of_wfAbove h4' (by omega))) h3
      · subst heq
        have hb : b = b' := by simpa [Memory.read] using e k
        subst hb
        rw [ih h4 h4' fun a => ?_]
        by_cases ha : k = a
        · subst ha
          rw [Memory.read_of_wfAbove h4 (Nat.le_refl k), Memory.read_of_wfAbove h4' (Nat.le_refl k)]
        · simpa [Memory.read, ha] using e a
      · have hk := e k'
        have hne : k ≠ k' := by omega
        simp only [Memory.read, if_true, hne, if_false] at hk
        exact absurd (hk.symm.trans (Memory.read_of_wfAbove h4 (by omega))) h3'

/-- In canonical form, equal memories are equal data. -/
theorem Memory.ext_of_wf {m m' : Memory} (h : m.wf = true) (h' : m'.wf = true) (e : ∀ a, m.read a = m'.read a) : m = m' :=
  Memory.ext_of_wfAbove h h' e

/-! ## The address check (20_memory.md R44, R48) -/

/-- The check over a run passes exactly where every address of it exists. -/
theorem firstBadAddr_none {base n : Nat} : firstBadAddr base n = none ↔ n = 0 ∨ base + n ≤ memSize := by
  simp only [firstBadAddr, List.find?_eq_none, List.mem_map, List.mem_range, forall_exists_index, and_imp, memSize]
  constructor
  · intro h
    by_contra hc
    have := h (base + (n - 1)) (n - 1) (by omega) rfl
    simp at this
    omega
  · rintro h x k hk rfl
    simp
    omega

/-- Where it fails, it names the lowest address above 0xFFF. -/
theorem firstBadAddr_some {base n : Nat} (hn : 0 < n) (h : memSize < base + n) :
    firstBadAddr base n = some (max base memSize) := by
  simp only [firstBadAddr, memSize] at *
  induction n generalizing base with
  | zero => omega
  | succ n ih =>
    rw [List.range_succ_eq_map, List.map_cons, List.find?_cons]
    by_cases hb : base > 0xFFF
    · have e : max base 4096 = base := by omega
      simp [hb, e]
    · have := ih (base := base + 1) (by omega) (by omega)
      have hm : max (base + 1) 4096 = max base 4096 := by omega
      rw [hm] at this
      have hb' : decide (base + 0 > 0xFFF) = false := by simpa using hb
      simp only [hb']
      rw [← this, List.map_map]
      congr 1
      apply List.map_congr_left
      intro k _
      simp only [Function.comp, Nat.succ_eq_add_one]
      omega

end Sys2Proof.Machine
end

