-- ==== Sys2Proof/Laws/State.lean ====
section
/-! SUPPORT. What each field of State is after each named update (Machine/Ops.lean, Machine/Operands.lean), so that no proof
unfolds a record update; and what `readV` reads after each. Every lemma is true by rfl but for `readV_setV`. -/

namespace Sys2Proof.Machine

variable (s : State)

/-! ### setV -/

@[simp] theorem State.setV_mem (x : RegIdx) (b : Byte) : (s.setV x b).mem = s.mem := rfl
@[simp] theorem State.setV_v (x : RegIdx) (b : Byte) : (s.setV x b).v = s.v.set x.toNat b x.isLt := rfl
@[simp] theorem State.setV_index (x : RegIdx) (b : Byte) : (s.setV x b).index = s.index := rfl
@[simp] theorem State.setV_pc (x : RegIdx) (b : Byte) : (s.setV x b).pc = s.pc := rfl
@[simp] theorem State.setV_stack (x : RegIdx) (b : Byte) : (s.setV x b).stack = s.stack := rfl
@[simp] theorem State.setV_sp (x : RegIdx) (b : Byte) : (s.setV x b).sp = s.sp := rfl
@[simp] theorem State.setV_dt (x : RegIdx) (b : Byte) : (s.setV x b).dt = s.dt := rfl
@[simp] theorem State.setV_st (x : RegIdx) (b : Byte) : (s.setV x b).st = s.st := rfl
@[simp] theorem State.setV_keys (x : RegIdx) (b : Byte) : (s.setV x b).keys = s.keys := rfl
@[simp] theorem State.setV_latch (x : RegIdx) (b : Byte) : (s.setV x b).latch = s.latch := rfl
@[simp] theorem State.setV_grid (x : RegIdx) (b : Byte) : (s.setV x b).grid = s.grid := rfl
@[simp] theorem State.setV_opcodeReg (x : RegIdx) (b : Byte) : (s.setV x b).opcodeReg = s.opcodeReg := rfl
@[simp] theorem State.setV_status (x : RegIdx) (b : Byte) : (s.setV x b).status = s.status := rfl
@[simp] theorem State.setV_rng (x : RegIdx) (b : Byte) : (s.setV x b).rng = s.rng := rfl
@[simp] theorem State.setV_beep (x : RegIdx) (b : Byte) : (s.setV x b).beep = s.beep := rfl
@[simp] theorem State.setV_redraw (x : RegIdx) (b : Byte) : (s.setV x b).redraw = s.redraw := rfl

/-! ### setPc -/

@[simp] theorem State.setPc_mem (w : Word) : (s.setPc w).mem = s.mem := rfl
@[simp] theorem State.setPc_v (w : Word) : (s.setPc w).v = s.v := rfl
@[simp] theorem State.setPc_index (w : Word) : (s.setPc w).index = s.index := rfl
@[simp] theorem State.setPc_pc (w : Word) : (s.setPc w).pc = w := rfl
@[simp] theorem State.setPc_stack (w : Word) : (s.setPc w).stack = s.stack := rfl
@[simp] theorem State.setPc_sp (w : Word) : (s.setPc w).sp = s.sp := rfl
@[simp] theorem State.setPc_dt (w : Word) : (s.setPc w).dt = s.dt := rfl
@[simp] theorem State.setPc_st (w : Word) : (s.setPc w).st = s.st := rfl
@[simp] theorem State.setPc_keys (w : Word) : (s.setPc w).keys = s.keys := rfl
@[simp] theorem State.setPc_latch (w : Word) : (s.setPc w).latch = s.latch := rfl
@[simp] theorem State.setPc_grid (w : Word) : (s.setPc w).grid = s.grid := rfl
@[simp] theorem State.setPc_opcodeReg (w : Word) : (s.setPc w).opcodeReg = s.opcodeReg := rfl
@[simp] theorem State.setPc_status (w : Word) : (s.setPc w).status = s.status := rfl
@[simp] theorem State.setPc_rng (w : Word) : (s.setPc w).rng = s.rng := rfl
@[simp] theorem State.setPc_beep (w : Word) : (s.setPc w).beep = s.beep := rfl
@[simp] theorem State.setPc_redraw (w : Word) : (s.setPc w).redraw = s.redraw := rfl
@[simp] theorem State.readV_setPc (w : Word) (r : RegIdx) : (s.setPc w).readV r = s.readV r := rfl

/-! ### advance -/

@[simp] theorem State.advance_mem : s.advance.mem = s.mem := rfl
@[simp] theorem State.advance_v : s.advance.v = s.v := rfl
@[simp] theorem State.advance_index : s.advance.index = s.index := rfl
@[simp] theorem State.advance_pc : s.advance.pc = s.pc + 2 := rfl
@[simp] theorem State.advance_stack : s.advance.stack = s.stack := rfl
@[simp] theorem State.advance_sp : s.advance.sp = s.sp := rfl
@[simp] theorem State.advance_dt : s.advance.dt = s.dt := rfl
@[simp] theorem State.advance_st : s.advance.st = s.st := rfl
@[simp] theorem State.advance_keys : s.advance.keys = s.keys := rfl
@[simp] theorem State.advance_latch : s.advance.latch = s.latch := rfl
@[simp] theorem State.advance_grid : s.advance.grid = s.grid := rfl
@[simp] theorem State.advance_opcodeReg : s.advance.opcodeReg = s.opcodeReg := rfl
@[simp] theorem State.advance_status : s.advance.status = s.status := rfl
@[simp] theorem State.advance_rng : s.advance.rng = s.rng := rfl
@[simp] theorem State.advance_beep : s.advance.beep = s.beep := rfl
@[simp] theorem State.advance_redraw : s.advance.redraw = s.redraw := rfl
@[simp] theorem State.readV_advance (r : RegIdx) : s.advance.readV r = s.readV r := rfl

/-! ### setIndex -/

@[simp] theorem State.setIndex_mem (w : Word) : (s.setIndex w).mem = s.mem := rfl
@[simp] theorem State.setIndex_v (w : Word) : (s.setIndex w).v = s.v := rfl
@[simp] theorem State.setIndex_index (w : Word) : (s.setIndex w).index = w := rfl
@[simp] theorem State.setIndex_pc (w : Word) : (s.setIndex w).pc = s.pc := rfl
@[simp] theorem State.setIndex_stack (w : Word) : (s.setIndex w).stack = s.stack := rfl
@[simp] theorem State.setIndex_sp (w : Word) : (s.setIndex w).sp = s.sp := rfl
@[simp] theorem State.setIndex_dt (w : Word) : (s.setIndex w).dt = s.dt := rfl
@[simp] theorem State.setIndex_st (w : Word) : (s.setIndex w).st = s.st := rfl
@[simp] theorem State.setIndex_keys (w : Word) : (s.setIndex w).keys = s.keys := rfl
@[simp] theorem State.setIndex_latch (w : Word) : (s.setIndex w).latch = s.latch := rfl
@[simp] theorem State.setIndex_grid (w : Word) : (s.setIndex w).grid = s.grid := rfl
@[simp] theorem State.setIndex_opcodeReg (w : Word) : (s.setIndex w).opcodeReg = s.opcodeReg := rfl
@[simp] theorem State.setIndex_status (w : Word) : (s.setIndex w).status = s.status := rfl
@[simp] theorem State.setIndex_rng (w : Word) : (s.setIndex w).rng = s.rng := rfl
@[simp] theorem State.setIndex_beep (w : Word) : (s.setIndex w).beep = s.beep := rfl
@[simp] theorem State.setIndex_redraw (w : Word) : (s.setIndex w).redraw = s.redraw := rfl
@[simp] theorem State.readV_setIndex (w : Word) (r : RegIdx) : (s.setIndex w).readV r = s.readV r := rfl

/-! ### setMem -/

@[simp] theorem State.setMem_mem (m : Memory) : (s.setMem m).mem = m := rfl
@[simp] theorem State.setMem_v (m : Memory) : (s.setMem m).v = s.v := rfl
@[simp] theorem State.setMem_index (m : Memory) : (s.setMem m).index = s.index := rfl
@[simp] theorem State.setMem_pc (m : Memory) : (s.setMem m).pc = s.pc := rfl
@[simp] theorem State.setMem_stack (m : Memory) : (s.setMem m).stack = s.stack := rfl
@[simp] theorem State.setMem_sp (m : Memory) : (s.setMem m).sp = s.sp := rfl
@[simp] theorem State.setMem_dt (m : Memory) : (s.setMem m).dt = s.dt := rfl
@[simp] theorem State.setMem_st (m : Memory) : (s.setMem m).st = s.st := rfl
@[simp] theorem State.setMem_keys (m : Memory) : (s.setMem m).keys = s.keys := rfl
@[simp] theorem State.setMem_latch (m : Memory) : (s.setMem m).latch = s.latch := rfl
@[simp] theorem State.setMem_grid (m : Memory) : (s.setMem m).grid = s.grid := rfl
@[simp] theorem State.setMem_opcodeReg (m : Memory) : (s.setMem m).opcodeReg = s.opcodeReg := rfl
@[simp] theorem State.setMem_status (m : Memory) : (s.setMem m).status = s.status := rfl
@[simp] theorem State.setMem_rng (m : Memory) : (s.setMem m).rng = s.rng := rfl
@[simp] theorem State.setMem_beep (m : Memory) : (s.setMem m).beep = s.beep := rfl
@[simp] theorem State.setMem_redraw (m : Memory) : (s.setMem m).redraw = s.redraw := rfl
@[simp] theorem State.readV_setMem (m : Memory) (r : RegIdx) : (s.setMem m).readV r = s.readV r := rfl

/-! ### setGrid -/

@[simp] theorem State.setGrid_mem (g : Grid) : (s.setGrid g).mem = s.mem := rfl
@[simp] theorem State.setGrid_v (g : Grid) : (s.setGrid g).v = s.v := rfl
@[simp] theorem State.setGrid_index (g : Grid) : (s.setGrid g).index = s.index := rfl
@[simp] theorem State.setGrid_pc (g : Grid) : (s.setGrid g).pc = s.pc := rfl
@[simp] theorem State.setGrid_stack (g : Grid) : (s.setGrid g).stack = s.stack := rfl
@[simp] theorem State.setGrid_sp (g : Grid) : (s.setGrid g).sp = s.sp := rfl
@[simp] theorem State.setGrid_dt (g : Grid) : (s.setGrid g).dt = s.dt := rfl
@[simp] theorem State.setGrid_st (g : Grid) : (s.setGrid g).st = s.st := rfl
@[simp] theorem State.setGrid_keys (g : Grid) : (s.setGrid g).keys = s.keys := rfl
@[simp] theorem State.setGrid_latch (g : Grid) : (s.setGrid g).latch = s.latch := rfl
@[simp] theorem State.setGrid_grid (g : Grid) : (s.setGrid g).grid = g := rfl
@[simp] theorem State.setGrid_opcodeReg (g : Grid) : (s.setGrid g).opcodeReg = s.opcodeReg := rfl
@[simp] theorem State.setGrid_status (g : Grid) : (s.setGrid g).status = s.status := rfl
@[simp] theorem State.setGrid_rng (g : Grid) : (s.setGrid g).rng = s.rng := rfl
@[simp] theorem State.setGrid_beep (g : Grid) : (s.setGrid g).beep = s.beep := rfl
@[simp] theorem State.setGrid_redraw (g : Grid) : (s.setGrid g).redraw = s.redraw := rfl
@[simp] theorem State.readV_setGrid (g : Grid) (r : RegIdx) : (s.setGrid g).readV r = s.readV r := rfl

/-! ### markRedraw -/

@[simp] theorem State.markRedraw_mem : s.markRedraw.mem = s.mem := rfl
@[simp] theorem State.markRedraw_v : s.markRedraw.v = s.v := rfl
@[simp] theorem State.markRedraw_index : s.markRedraw.index = s.index := rfl
@[simp] theorem State.markRedraw_pc : s.markRedraw.pc = s.pc := rfl
@[simp] theorem State.markRedraw_stack : s.markRedraw.stack = s.stack := rfl
@[simp] theorem State.markRedraw_sp : s.markRedraw.sp = s.sp := rfl
@[simp] theorem State.markRedraw_dt : s.markRedraw.dt = s.dt := rfl
@[simp] theorem State.markRedraw_st : s.markRedraw.st = s.st := rfl
@[simp] theorem State.markRedraw_keys : s.markRedraw.keys = s.keys := rfl
@[simp] theorem State.markRedraw_latch : s.markRedraw.latch = s.latch := rfl
@[simp] theorem State.markRedraw_grid : s.markRedraw.grid = s.grid := rfl
@[simp] theorem State.markRedraw_opcodeReg : s.markRedraw.opcodeReg = s.opcodeReg := rfl
@[simp] theorem State.markRedraw_status : s.markRedraw.status = s.status := rfl
@[simp] theorem State.markRedraw_rng : s.markRedraw.rng = s.rng := rfl
@[simp] theorem State.markRedraw_beep : s.markRedraw.beep = s.beep := rfl
@[simp] theorem State.markRedraw_redraw : s.markRedraw.redraw = true := rfl
@[simp] theorem State.readV_markRedraw (r : RegIdx) : s.markRedraw.readV r = s.readV r := rfl

/-! ### advanceRng -/

@[simp] theorem State.advanceRng_mem : s.advanceRng.mem = s.mem := rfl
@[simp] theorem State.advanceRng_v : s.advanceRng.v = s.v := rfl
@[simp] theorem State.advanceRng_index : s.advanceRng.index = s.index := rfl
@[simp] theorem State.advanceRng_pc : s.advanceRng.pc = s.pc := rfl
@[simp] theorem State.advanceRng_stack : s.advanceRng.stack = s.stack := rfl
@[simp] theorem State.advanceRng_sp : s.advanceRng.sp = s.sp := rfl
@[simp] theorem State.advanceRng_dt : s.advanceRng.dt = s.dt := rfl
@[simp] theorem State.advanceRng_st : s.advanceRng.st = s.st := rfl
@[simp] theorem State.advanceRng_keys : s.advanceRng.keys = s.keys := rfl
@[simp] theorem State.advanceRng_latch : s.advanceRng.latch = s.latch := rfl
@[simp] theorem State.advanceRng_grid : s.advanceRng.grid = s.grid := rfl
@[simp] theorem State.advanceRng_opcodeReg : s.advanceRng.opcodeReg = s.opcodeReg := rfl
@[simp] theorem State.advanceRng_status : s.advanceRng.status = s.status := rfl
@[simp] theorem State.advanceRng_rng : s.advanceRng.rng = (Config.rngNext s.rng).1 := rfl
@[simp] theorem State.advanceRng_beep : s.advanceRng.beep = s.beep := rfl
@[simp] theorem State.advanceRng_redraw : s.advanceRng.redraw = s.redraw := rfl
@[simp] theorem State.readV_advanceRng (r : RegIdx) : s.advanceRng.readV r = s.readV r := rfl

/-! ### setDt -/

@[simp] theorem State.setDt_mem (b : Byte) : (s.setDt b).mem = s.mem := rfl
@[simp] theorem State.setDt_v (b : Byte) : (s.setDt b).v = s.v := rfl
@[simp] theorem State.setDt_index (b : Byte) : (s.setDt b).index = s.index := rfl
@[simp] theorem State.setDt_pc (b : Byte) : (s.setDt b).pc = s.pc := rfl
@[simp] theorem State.setDt_stack (b : Byte) : (s.setDt b).stack = s.stack := rfl
@[simp] theorem State.setDt_sp (b : Byte) : (s.setDt b).sp = s.sp := rfl
@[simp] theorem State.setDt_dt (b : Byte) : (s.setDt b).dt = b := rfl
@[simp] theorem State.setDt_st (b : Byte) : (s.setDt b).st = s.st := rfl
@[simp] theorem State.setDt_keys (b : Byte) : (s.setDt b).keys = s.keys := rfl
@[simp] theorem State.setDt_latch (b : Byte) : (s.setDt b).latch = s.latch := rfl
@[simp] theorem State.setDt_grid (b : Byte) : (s.setDt b).grid = s.grid := rfl
@[simp] theorem State.setDt_opcodeReg (b : Byte) : (s.setDt b).opcodeReg = s.opcodeReg := rfl
@[simp] theorem State.setDt_status (b : Byte) : (s.setDt b).status = s.status := rfl
@[simp] theorem State.setDt_rng (b : Byte) : (s.setDt b).rng = s.rng := rfl
@[simp] theorem State.setDt_beep (b : Byte) : (s.setDt b).beep = s.beep := rfl
@[simp] theorem State.setDt_redraw (b : Byte) : (s.setDt b).redraw = s.redraw := rfl
@[simp] theorem State.readV_setDt (b : Byte) (r : RegIdx) : (s.setDt b).readV r = s.readV r := rfl

/-! ### setSt -/

@[simp] theorem State.setSt_mem (b : Byte) : (s.setSt b).mem = s.mem := rfl
@[simp] theorem State.setSt_v (b : Byte) : (s.setSt b).v = s.v := rfl
@[simp] theorem State.setSt_index (b : Byte) : (s.setSt b).index = s.index := rfl
@[simp] theorem State.setSt_pc (b : Byte) : (s.setSt b).pc = s.pc := rfl
@[simp] theorem State.setSt_stack (b : Byte) : (s.setSt b).stack = s.stack := rfl
@[simp] theorem State.setSt_sp (b : Byte) : (s.setSt b).sp = s.sp := rfl
@[simp] theorem State.setSt_dt (b : Byte) : (s.setSt b).dt = s.dt := rfl
@[simp] theorem State.setSt_st (b : Byte) : (s.setSt b).st = b := rfl
@[simp] theorem State.setSt_keys (b : Byte) : (s.setSt b).keys = s.keys := rfl
@[simp] theorem State.setSt_latch (b : Byte) : (s.setSt b).latch = s.latch := rfl
@[simp] theorem State.setSt_grid (b : Byte) : (s.setSt b).grid = s.grid := rfl
@[simp] theorem State.setSt_opcodeReg (b : Byte) : (s.setSt b).opcodeReg = s.opcodeReg := rfl
@[simp] theorem State.setSt_status (b : Byte) : (s.setSt b).status = s.status := rfl
@[simp] theorem State.setSt_rng (b : Byte) : (s.setSt b).rng = s.rng := rfl
@[simp] theorem State.setSt_beep (b : Byte) : (s.setSt b).beep = s.beep := rfl
@[simp] theorem State.setSt_redraw (b : Byte) : (s.setSt b).redraw = s.redraw := rfl
@[simp] theorem State.readV_setSt (b : Byte) (r : RegIdx) : (s.setSt b).readV r = s.readV r := rfl

/-! ### stepIndex -/

@[simp] theorem State.stepIndex_mem (x : RegIdx) : (s.stepIndex x).mem = s.mem := rfl
@[simp] theorem State.stepIndex_v (x : RegIdx) : (s.stepIndex x).v = s.v := rfl
@[simp] theorem State.stepIndex_index (x : RegIdx) : (s.stepIndex x).index = trunc16 (s.index.toNat + blockLen x) := rfl
@[simp] theorem State.stepIndex_pc (x : RegIdx) : (s.stepIndex x).pc = s.pc := rfl
@[simp] theorem State.stepIndex_stack (x : RegIdx) : (s.stepIndex x).stack = s.stack := rfl
@[simp] theorem State.stepIndex_sp (x : RegIdx) : (s.stepIndex x).sp = s.sp := rfl
@[simp] theorem State.stepIndex_dt (x : RegIdx) : (s.stepIndex x).dt = s.dt := rfl
@[simp] theorem State.stepIndex_st (x : RegIdx) : (s.stepIndex x).st = s.st := rfl
@[simp] theorem State.stepIndex_keys (x : RegIdx) : (s.stepIndex x).keys = s.keys := rfl
@[simp] theorem State.stepIndex_latch (x : RegIdx) : (s.stepIndex x).latch = s.latch := rfl
@[simp] theorem State.stepIndex_grid (x : RegIdx) : (s.stepIndex x).grid = s.grid := rfl
@[simp] theorem State.stepIndex_opcodeReg (x : RegIdx) : (s.stepIndex x).opcodeReg = s.opcodeReg := rfl
@[simp] theorem State.stepIndex_status (x : RegIdx) : (s.stepIndex x).status = s.status := rfl
@[simp] theorem State.stepIndex_rng (x : RegIdx) : (s.stepIndex x).rng = s.rng := rfl
@[simp] theorem State.stepIndex_beep (x : RegIdx) : (s.stepIndex x).beep = s.beep := rfl
@[simp] theorem State.stepIndex_redraw (x : RegIdx) : (s.stepIndex x).redraw = s.redraw := rfl
@[simp] theorem State.readV_stepIndex (x : RegIdx) (r : RegIdx) : (s.stepIndex x).readV r = s.readV r := rfl

/-! ### loadBlock -/

@[simp] theorem State.loadBlock_mem (x : RegIdx) : (s.loadBlock x).mem = s.mem := rfl
@[simp] theorem State.loadBlock_index (x : RegIdx) : (s.loadBlock x).index = s.index := rfl
@[simp] theorem State.loadBlock_pc (x : RegIdx) : (s.loadBlock x).pc = s.pc := rfl
@[simp] theorem State.loadBlock_stack (x : RegIdx) : (s.loadBlock x).stack = s.stack := rfl
@[simp] theorem State.loadBlock_sp (x : RegIdx) : (s.loadBlock x).sp = s.sp := rfl
@[simp] theorem State.loadBlock_dt (x : RegIdx) : (s.loadBlock x).dt = s.dt := rfl
@[simp] theorem State.loadBlock_st (x : RegIdx) : (s.loadBlock x).st = s.st := rfl
@[simp] theorem State.loadBlock_keys (x : RegIdx) : (s.loadBlock x).keys = s.keys := rfl
@[simp] theorem State.loadBlock_latch (x : RegIdx) : (s.loadBlock x).latch = s.latch := rfl
@[simp] theorem State.loadBlock_grid (x : RegIdx) : (s.loadBlock x).grid = s.grid := rfl
@[simp] theorem State.loadBlock_opcodeReg (x : RegIdx) : (s.loadBlock x).opcodeReg = s.opcodeReg := rfl
@[simp] theorem State.loadBlock_status (x : RegIdx) : (s.loadBlock x).status = s.status := rfl
@[simp] theorem State.loadBlock_rng (x : RegIdx) : (s.loadBlock x).rng = s.rng := rfl
@[simp] theorem State.loadBlock_beep (x : RegIdx) : (s.loadBlock x).beep = s.beep := rfl
@[simp] theorem State.loadBlock_redraw (x : RegIdx) : (s.loadBlock x).redraw = s.redraw := rfl

/-! ### enterFault -/

@[simp] theorem State.enterFault_mem (f : Fault) : (s.enterFault f).mem = s.mem := rfl
@[simp] theorem State.enterFault_v (f : Fault) : (s.enterFault f).v = s.v := rfl
@[simp] theorem State.enterFault_index (f : Fault) : (s.enterFault f).index = s.index := rfl
@[simp] theorem State.enterFault_pc (f : Fault) : (s.enterFault f).pc = s.pc := rfl
@[simp] theorem State.enterFault_stack (f : Fault) : (s.enterFault f).stack = s.stack := rfl
@[simp] theorem State.enterFault_sp (f : Fault) : (s.enterFault f).sp = s.sp := rfl
@[simp] theorem State.enterFault_dt (f : Fault) : (s.enterFault f).dt = s.dt := rfl
@[simp] theorem State.enterFault_st (f : Fault) : (s.enterFault f).st = s.st := rfl
@[simp] theorem State.enterFault_keys (f : Fault) : (s.enterFault f).keys = s.keys := rfl
@[simp] theorem State.enterFault_latch (f : Fault) : (s.enterFault f).latch = s.latch := rfl
@[simp] theorem State.enterFault_grid (f : Fault) : (s.enterFault f).grid = s.grid := rfl
@[simp] theorem State.enterFault_opcodeReg (f : Fault) : (s.enterFault f).opcodeReg = s.opcodeReg := rfl
@[simp] theorem State.enterFault_status (f : Fault) : (s.enterFault f).status = .faulted f := rfl
@[simp] theorem State.enterFault_rng (f : Fault) : (s.enterFault f).rng = s.rng := rfl
@[simp] theorem State.enterFault_beep (f : Fault) : (s.enterFault f).beep = false := rfl
@[simp] theorem State.enterFault_redraw (f : Fault) : (s.enterFault f).redraw = false := rfl
@[simp] theorem State.readV_enterFault (f : Fault) (r : RegIdx) : (s.enterFault f).readV r = s.readV r := rfl

/-! ### clearOutputs -/

@[simp] theorem State.clearOutputs_mem : s.clearOutputs.mem = s.mem := rfl
@[simp] theorem State.clearOutputs_v : s.clearOutputs.v = s.v := rfl
@[simp] theorem State.clearOutputs_index : s.clearOutputs.index = s.index := rfl
@[simp] theorem State.clearOutputs_pc : s.clearOutputs.pc = s.pc := rfl
@[simp] theorem State.clearOutputs_stack : s.clearOutputs.stack = s.stack := rfl
@[simp] theorem State.clearOutputs_sp : s.clearOutputs.sp = s.sp := rfl
@[simp] theorem State.clearOutputs_dt : s.clearOutputs.dt = s.dt := rfl
@[simp] theorem State.clearOutputs_st : s.clearOutputs.st = s.st := rfl
@[simp] theorem State.clearOutputs_keys : s.clearOutputs.keys = s.keys := rfl
@[simp] theorem State.clearOutputs_latch : s.clearOutputs.latch = s.latch := rfl
@[simp] theorem State.clearOutputs_grid : s.clearOutputs.grid = s.grid := rfl
@[simp] theorem State.clearOutputs_opcodeReg : s.clearOutputs.opcodeReg = s.opcodeReg := rfl
@[simp] theorem State.clearOutputs_status : s.clearOutputs.status = s.status := rfl
@[simp] theorem State.clearOutputs_rng : s.clearOutputs.rng = s.rng := rfl
@[simp] theorem State.clearOutputs_beep : s.clearOutputs.beep = false := rfl
@[simp] theorem State.clearOutputs_redraw : s.clearOutputs.redraw = false := rfl
@[simp] theorem State.readV_clearOutputs (r : RegIdx) : s.clearOutputs.readV r = s.readV r := rfl

/-! ### tick -/

@[simp] theorem State.tick_mem : s.tick.mem = s.mem := rfl
@[simp] theorem State.tick_v : s.tick.v = s.v := rfl
@[simp] theorem State.tick_index : s.tick.index = s.index := rfl
@[simp] theorem State.tick_pc : s.tick.pc = s.pc := rfl
@[simp] theorem State.tick_stack : s.tick.stack = s.stack := rfl
@[simp] theorem State.tick_sp : s.tick.sp = s.sp := rfl
@[simp] theorem State.tick_dt : s.tick.dt = tickTimer s.dt := rfl
@[simp] theorem State.tick_st : s.tick.st = tickTimer s.st := rfl
@[simp] theorem State.tick_keys : s.tick.keys = s.keys := rfl
@[simp] theorem State.tick_latch : s.tick.latch = s.latch := rfl
@[simp] theorem State.tick_grid : s.tick.grid = s.grid := rfl
@[simp] theorem State.tick_opcodeReg : s.tick.opcodeReg = s.opcodeReg := rfl
@[simp] theorem State.tick_status : s.tick.status = s.status := rfl
@[simp] theorem State.tick_rng : s.tick.rng = s.rng := rfl
@[simp] theorem State.tick_beep : s.tick.beep = (s.st == 1) := rfl
@[simp] theorem State.tick_redraw : s.tick.redraw = s.redraw := rfl
@[simp] theorem State.readV_tick (r : RegIdx) : s.tick.readV r = s.readV r := rfl

/-! ### endOfStep -/

@[simp] theorem State.endOfStep_mem (op : Word) : (s.endOfStep op).mem = s.mem := rfl
@[simp] theorem State.endOfStep_v (op : Word) : (s.endOfStep op).v = s.v := rfl
@[simp] theorem State.endOfStep_index (op : Word) : (s.endOfStep op).index = s.index := rfl
@[simp] theorem State.endOfStep_pc (op : Word) : (s.endOfStep op).pc = s.pc := rfl
@[simp] theorem State.endOfStep_stack (op : Word) : (s.endOfStep op).stack = s.stack := rfl
@[simp] theorem State.endOfStep_sp (op : Word) : (s.endOfStep op).sp = s.sp := rfl
@[simp] theorem State.endOfStep_dt (op : Word) : (s.endOfStep op).dt = tickTimer s.dt := rfl
@[simp] theorem State.endOfStep_st (op : Word) : (s.endOfStep op).st = tickTimer s.st := rfl
@[simp] theorem State.endOfStep_keys (op : Word) : (s.endOfStep op).keys = s.keys := rfl
@[simp] theorem State.endOfStep_latch (op : Word) : (s.endOfStep op).latch = none := rfl
@[simp] theorem State.endOfStep_grid (op : Word) : (s.endOfStep op).grid = s.grid := rfl
@[simp] theorem State.endOfStep_opcodeReg (op : Word) : (s.endOfStep op).opcodeReg = op := rfl
@[simp] theorem State.endOfStep_status (op : Word) : (s.endOfStep op).status = s.status := rfl
@[simp] theorem State.endOfStep_rng (op : Word) : (s.endOfStep op).rng = s.rng := rfl
@[simp] theorem State.endOfStep_beep (op : Word) : (s.endOfStep op).beep = (s.st == 1) := rfl
@[simp] theorem State.endOfStep_redraw (op : Word) : (s.endOfStep op).redraw = s.redraw := rfl
@[simp] theorem State.readV_endOfStep (op : Word) (r : RegIdx) : (s.endOfStep op).readV r = s.readV r := rfl

/-! ### Reading a register -/

@[simp] theorem State.readV_setV (x r : RegIdx) (b : Byte) : (s.setV x b).readV r = if r = x then b else s.readV r := by
  simp only [State.readV, State.setV, Vector.getElem_set]
  by_cases h : r = x
  · simp [h]
  · have : x.toNat ≠ r.toNat := fun e => h (BitVec.eq_of_toNat_eq e.symm)
    simp [h, this]

/-- The register file is determined by what `readV` reads. -/
theorem State.v_ext_readV (t : State) (h : ∀ r, t.readV r = s.readV r) : t.v = s.v := by
  apply Vector.ext
  intro k hk
  have := h (BitVec.ofNat 4 k)
  have e : (BitVec.ofNat 4 k).toNat = k := by simp only [BitVec.toNat_ofNat]; omega
  simpa only [State.readV, e] using this

end Sys2Proof.Machine
end

