-- ==== Sys2Proof/Laws/Ops.lean ====
section
/-! SUPPORT. One lemma per shared operation that says everything it can do, for proofs to cite instead of unfolding it. -/

namespace Sys2Proof.Machine

/-! ## Frames -/

/-- A frame over the sixteen elements, spelled out. -/
theorem sameExcept_of {cs : List Component} {s t : State}
    (mem : .mem ∉ cs → ∀ a, t.mem.read a = s.mem.read a) (v : .v ∉ cs → ∀ r, t.readV r = s.readV r)
    (index : .index ∉ cs → t.index = s.index) (pc : .pc ∉ cs → t.pc = s.pc)
    (stack : .stack ∉ cs → ∀ k : Fin 16, t.stack[k] = s.stack[k]) (sp : .sp ∉ cs → t.sp = s.sp)
    (dt : .dt ∉ cs → t.dt = s.dt) (st : .st ∉ cs → t.st = s.st) (keys : .keys ∉ cs → ∀ k, t.readKey k = s.readKey k)
    (latch : .latch ∉ cs → t.latch = s.latch) (grid : .grid ∉ cs → ∀ x y, t.grid.cell x y = s.grid.cell x y)
    (opcodeReg : .opcodeReg ∉ cs → t.opcodeReg = s.opcodeReg) (status : .status ∉ cs → t.status = s.status)
    (rng : .rng ∉ cs → t.rng = s.rng) (beep : .beep ∉ cs → t.beep = s.beep) (redraw : .redraw ∉ cs → t.redraw = s.redraw) :
    SameExcept cs s t := by
  intro c hc
  cases c
  exacts [mem hc, v hc, index hc, pc hc, stack hc, sp hc, dt hc, st hc, keys hc, latch hc, grid hc, opcodeReg hc, status hc,
    rng hc, beep hc, redraw hc]

theorem sameExcept_refl (cs : List Component) (s : State) : SameExcept cs s s := by
  intro c _
  cases c <;> simp [Component.same]

theorem Component.same_trans {c : Component} {s t u : State} (h : c.same s t) (h' : c.same t u) : c.same s u := by
  cases c <;> simp_all [Component.same]

theorem SameExcept.trans {cs : List Component} {s t u : State} (h : SameExcept cs s t) (h' : SameExcept cs t u) :
    SameExcept cs s u := fun c hc => Component.same_trans (h c hc) (h' c hc)

theorem SameExcept.mono {cs ds : List Component} {s t : State} (h : SameExcept cs s t) (hs : ∀ c ∈ cs, c ∈ ds) :
    SameExcept ds s t := fun c hc => h c fun hm => hc (hs c hm)

/-! ## What each named operation writes -/

theorem sameExcept_setPc (s : State) (w : Word) : SameExcept [.pc] s (s.setPc w) := by
  apply sameExcept_of <;> intro h <;> first | exact absurd (by decide) h | (intros; rfl)

theorem sameExcept_advance (s : State) : SameExcept [.pc] s (s.advance) := by
  apply sameExcept_of <;> intro h <;> first | exact absurd (by decide) h | (intros; rfl)

theorem sameExcept_setV (s : State) (x : RegIdx) (b : Byte) : SameExcept [.v] s (s.setV x b) := by
  apply sameExcept_of <;> intro h <;> first | exact absurd (by decide) h | (intros; rfl)

theorem sameExcept_setIndex (s : State) (w : Word) : SameExcept [.index] s (s.setIndex w) := by
  apply sameExcept_of <;> intro h <;> first | exact absurd (by decide) h | (intros; rfl)

theorem sameExcept_setMem (s : State) (m : Memory) : SameExcept [.mem] s (s.setMem m) := by
  apply sameExcept_of <;> intro h <;> first | exact absurd (by decide) h | (intros; rfl)

theorem sameExcept_setGrid (s : State) (g : Grid) : SameExcept [.grid] s (s.setGrid g) := by
  apply sameExcept_of <;> intro h <;> first | exact absurd (by decide) h | (intros; rfl)

theorem sameExcept_markRedraw (s : State) : SameExcept [.redraw] s (s.markRedraw) := by
  apply sameExcept_of <;> intro h <;> first | exact absurd (by decide) h | (intros; rfl)

theorem sameExcept_advanceRng (s : State) : SameExcept [.rng] s (s.advanceRng) := by
  apply sameExcept_of <;> intro h <;> first | exact absurd (by decide) h | (intros; rfl)

theorem sameExcept_setDt (s : State) (b : Byte) : SameExcept [.dt] s (s.setDt b) := by
  apply sameExcept_of <;> intro h <;> first | exact absurd (by decide) h | (intros; rfl)

theorem sameExcept_setSt (s : State) (b : Byte) : SameExcept [.st] s (s.setSt b) := by
  apply sameExcept_of <;> intro h <;> first | exact absurd (by decide) h | (intros; rfl)

theorem sameExcept_loadBlock (s : State) (x : RegIdx) : SameExcept [.v] s (s.loadBlock x) := by
  generalize hv : (s.loadBlock x).v = w
  have e : s.loadBlock x = { s with v := w } := by rw [← hv]; rfl
  rw [e]
  apply sameExcept_of <;> intro h <;> first | exact absurd (by decide) h | (intros; rfl)

theorem sameExcept_stepIndex (s : State) (x : RegIdx) : SameExcept [.index] s (s.stepIndex x) := by
  apply sameExcept_of <;> intro h <;> first | exact absurd (by decide) h | (intros; rfl)

theorem sameExcept_clearOutputs (s : State) : SameExcept [.beep, .redraw] s (s.clearOutputs) := by
  apply sameExcept_of <;> intro h <;> first | exact absurd (by decide) h | (intros; rfl)

theorem sameExcept_endOfStep (s : State) (op : Word) : SameExcept [.dt, .st, .beep, .latch, .opcodeReg] s (s.endOfStep op) := by
  apply sameExcept_of <;> intro h <;> first | exact absurd (by decide) h | (intros; rfl)

/-! ## Faults -/

/-- A raised fault answers a next state that differs from the state before the step only in its status and outputs
(60_exceptions.md R126). -/
theorem raise_eq (f : Fault) (s : State) : raise f s = .next (s.enterFault f) := rfl

theorem sameExcept_enterFault (s : State) (f : Fault) : SameExcept [.status, .beep, .redraw] s (s.enterFault f) := by
  apply sameExcept_of <;> intros <;> first | rfl | simp_all

/-- The address check: the effect where every address exists. -/
theorem requireAddrs_ok {base n : Nat} {i : Instr} {s : State} {e : Result} (h : n = 0 ∨ base + n ≤ memSize) :
    requireAddrs base n i s e = e := by
  rw [requireAddrs, firstBadAddr_none.2 h]

/-- The address check: the fault for the lowest failing address where one does not. -/
theorem requireAddrs_bad {base n : Nat} {i : Instr} {s : State} {e : Result} (hn : 0 < n) (h : memSize < base + n) :
    requireAddrs base n i s e = raise (.addressOutOfRange s.pc (some (encode i)) (max base memSize)) s := by
  rw [requireAddrs, firstBadAddr_some hn h]

/-- The two answers of the address check. -/
theorem requireAddrs_cases (base n : Nat) (i : Instr) (s : State) (e : Result) :
    ((n = 0 ∨ base + n ≤ memSize) ∧ requireAddrs base n i s e = e) ∨
      (0 < n ∧ memSize < base + n ∧
        requireAddrs base n i s e = raise (.addressOutOfRange s.pc (some (encode i)) (max base memSize)) s) := by
  by_cases h : n = 0 ∨ base + n ≤ memSize
  · exact .inl ⟨h, requireAddrs_ok h⟩
  · exact .inr ⟨by omega, by omega, requireAddrs_bad (by omega) (by omega)⟩

/-! ## The call stack (10_state.md R23) -/

theorem push_none {s : State} {w : Word} : s.push w = none ↔ s.sp = 16 := by
  have := s.sp.isLt
  simp only [State.push, Fin.ext_iff]
  split <;> simp <;> omega

/-- A push writes the entry SP points at and counts it; nothing else changes. -/
theorem push_some {s t : State} {w : Word} (h : s.push w = some t) :
    ∃ hs : s.sp.val < 16, t = { s with stack := s.stack.set s.sp.val w hs, sp := ⟨s.sp.val + 1, by omega⟩ } := by
  unfold State.push at h
  split at h
  · rename_i hs
    exact ⟨hs, (Option.some.inj h).symm⟩
  · simp at h

theorem pop_none {s : State} : s.pop = none ↔ s.sp = 0 := by
  simp only [State.pop, Fin.ext_iff]
  split <;> simp_all

/-- A pop reads the entry below SP, leaves it in place and uncounts it; nothing else changes. -/
theorem pop_some {s t : State} {w : Word} (h : s.pop = some (w, t)) :
    ∃ hs : s.sp.val - 1 < 16, s.sp.val ≠ 0 ∧ w = s.stack[s.sp.val - 1] ∧ t = { s with sp := ⟨s.sp.val - 1, by omega⟩ } := by
  unfold State.pop at h
  split at h
  · simp at h
  · rename_i hs
    have := s.sp.isLt
    obtain ⟨rfl, rfl⟩ := Prod.mk.inj (Option.some.inj h)
    exact ⟨by omega, hs, rfl, rfl⟩

/-! ## Blocks of registers and memory -/

@[simp] theorem length_regBlock (s : State) (x : RegIdx) : (s.regBlock x).length = blockLen x := by simp [State.regBlock]

theorem getElem_regBlock {s : State} {x : RegIdx} {k : Nat} (hk : k < (s.regBlock x).length) :
    (s.regBlock x)[k] = s.readV (BitVec.ofNat 4 k) := by simp [State.regBlock]

theorem readV_loadBlock (s : State) (x r : RegIdx) :
    (s.loadBlock x).readV r = if r.toNat ≤ x.toNat then s.mem.read (s.index.toNat + r.toNat) else s.readV r := by
  simp only [State.readV, State.loadBlock, Vector.getElem_ofFn, blockLen, Nat.lt_succ_iff]
  rfl

@[simp] theorem length_bcdDigits (b : Byte) : (bcdDigits b).length = 3 := rfl

/-! ## Keys -/

theorem keyOf_eq (b : Byte) : keyOf b = if b.toNat ≤ 15 then some (b.setWidth 4) else none := rfl

/-! ## The end of a step (30_encoding.md R72) -/

/-- A tick takes one from a timer that is not 0 (60_exceptions.md R132). -/
theorem toNat_tickTimer (b : Byte) : (tickTimer b).toNat = b.toNat - 1 := by
  unfold tickTimer
  split
  · rename_i h; subst h; rfl
  · rename_i h
    have : b.toNat ≠ 0 := fun e => h (BitVec.eq_of_toNat_eq e)
    rw [BitVec.toNat_sub]
    simp
    omega

end Sys2Proof.Machine
end

