-- ==== Sys2Proof/Laws/PerInstr.lean ====
section
/-! SUPPORT. The family EncodeMatchesMapRow: the word of every instruction is selected by that instruction's own row of the opcode
map (30_encoding.md R61), whatever its fields. -/

-- One thread at a time: each of the many short proofs here would otherwise hold a thread of its own.
set_option Elab.async false

namespace Sys2Proof.Laws.EncodeMatchesMapRow

/-- The opcode map has a row with the instruction's number whose mask and match select the instruction's word. -/
def Statement (i : Instr) : Prop := ∃ r ∈ opcodeMap, r.caseNo = i.caseNo ∧ r.selects (encode i) = true

theorem op00E0 : Statement (.op00E0) :=
  ⟨⟨1, 0x00E0, 0xFFFF, .fixed⟩, by decide, rfl, by decide⟩

theorem op00EE : Statement (.op00EE) :=
  ⟨⟨2, 0x00EE, 0xFFFF, .fixed⟩, by decide, rfl, by decide⟩

theorem op0NNN (nnn : Addr12) : Statement (.op0NNN nnn) :=
  ⟨⟨3, 0x0000, 0xF000, .addr⟩, by decide, rfl, by simp [OpcodeRow.selects, encode, and_F000]; decide⟩

theorem op1NNN (nnn : Addr12) : Statement (.op1NNN nnn) :=
  ⟨⟨4, 0x1000, 0xF000, .addr⟩, by decide, rfl, by simp [OpcodeRow.selects, encode, and_F000]; decide⟩

theorem op2NNN (nnn : Addr12) : Statement (.op2NNN nnn) :=
  ⟨⟨5, 0x2000, 0xF000, .addr⟩, by decide, rfl, by simp [OpcodeRow.selects, encode, and_F000]; decide⟩

theorem op3XNN (x : RegIdx) (nn : Byte) : Statement (.op3XNN x nn) :=
  ⟨⟨6, 0x3000, 0xF000, .regImm⟩, by decide, rfl, by simp [OpcodeRow.selects, encode, and_F000]; decide⟩

theorem op4XNN (x : RegIdx) (nn : Byte) : Statement (.op4XNN x nn) :=
  ⟨⟨7, 0x4000, 0xF000, .regImm⟩, by decide, rfl, by simp [OpcodeRow.selects, encode, and_F000]; decide⟩

theorem op5XY0 (x y : RegIdx) : Statement (.op5XY0 x y) :=
  ⟨⟨8, 0x5000, 0xF00F, .regReg⟩, by decide, rfl, by simp [OpcodeRow.selects, encode, and_F00F]; decide⟩

theorem op9XY0 (x y : RegIdx) : Statement (.op9XY0 x y) :=
  ⟨⟨9, 0x9000, 0xF00F, .regReg⟩, by decide, rfl, by simp [OpcodeRow.selects, encode, and_F00F]; decide⟩

theorem op6XNN (x : RegIdx) (nn : Byte) : Statement (.op6XNN x nn) :=
  ⟨⟨10, 0x6000, 0xF000, .regImm⟩, by decide, rfl, by simp [OpcodeRow.selects, encode, and_F000]; decide⟩

theorem op7XNN (x : RegIdx) (nn : Byte) : Statement (.op7XNN x nn) :=
  ⟨⟨11, 0x7000, 0xF000, .regImm⟩, by decide, rfl, by simp [OpcodeRow.selects, encode, and_F000]; decide⟩

theorem op8XY0 (x y : RegIdx) : Statement (.op8XY0 x y) :=
  ⟨⟨12, 0x8000, 0xF00F, .regReg⟩, by decide, rfl, by simp [OpcodeRow.selects, encode, and_F00F]; decide⟩

theorem op8XY1 (x y : RegIdx) : Statement (.op8XY1 x y) :=
  ⟨⟨13, 0x8001, 0xF00F, .regReg⟩, by decide, rfl, by simp [OpcodeRow.selects, encode, and_F00F]; decide⟩

theorem op8XY2 (x y : RegIdx) : Statement (.op8XY2 x y) :=
  ⟨⟨14, 0x8002, 0xF00F, .regReg⟩, by decide, rfl, by simp [OpcodeRow.selects, encode, and_F00F]; decide⟩

theorem op8XY3 (x y : RegIdx) : Statement (.op8XY3 x y) :=
  ⟨⟨15, 0x8003, 0xF00F, .regReg⟩, by decide, rfl, by simp [OpcodeRow.selects, encode, and_F00F]; decide⟩

theorem op8XY4 (x y : RegIdx) : Statement (.op8XY4 x y) :=
  ⟨⟨16, 0x8004, 0xF00F, .regReg⟩, by decide, rfl, by simp [OpcodeRow.selects, encode, and_F00F]; decide⟩

theorem op8XY5 (x y : RegIdx) : Statement (.op8XY5 x y) :=
  ⟨⟨17, 0x8005, 0xF00F, .regReg⟩, by decide, rfl, by simp [OpcodeRow.selects, encode, and_F00F]; decide⟩

theorem op8XY6 (x y : RegIdx) : Statement (.op8XY6 x y) :=
  ⟨⟨18, 0x8006, 0xF00F, .regReg⟩, by decide, rfl, by simp [OpcodeRow.selects, encode, and_F00F]; decide⟩

theorem op8XY7 (x y : RegIdx) : Statement (.op8XY7 x y) :=
  ⟨⟨19, 0x8007, 0xF00F, .regReg⟩, by decide, rfl, by simp [OpcodeRow.selects, encode, and_F00F]; decide⟩

theorem op8XYE (x y : RegIdx) : Statement (.op8XYE x y) :=
  ⟨⟨20, 0x800E, 0xF00F, .regReg⟩, by decide, rfl, by simp [OpcodeRow.selects, encode, and_F00F]; decide⟩

theorem opANNN (nnn : Addr12) : Statement (.opANNN nnn) :=
  ⟨⟨21, 0xA000, 0xF000, .addr⟩, by decide, rfl, by simp [OpcodeRow.selects, encode, and_F000]; decide⟩

theorem opBNNN (nnn : Addr12) : Statement (.opBNNN nnn) :=
  ⟨⟨22, 0xB000, 0xF000, .addr⟩, by decide, rfl, by simp [OpcodeRow.selects, encode, and_F000]; decide⟩

theorem opCXNN (x : RegIdx) (nn : Byte) : Statement (.opCXNN x nn) :=
  ⟨⟨23, 0xC000, 0xF000, .regImm⟩, by decide, rfl, by simp [OpcodeRow.selects, encode, and_F000]; decide⟩

theorem opDXYN (x y : RegIdx) (n : Nibble) : Statement (.opDXYN x y n) :=
  ⟨⟨24, 0xD000, 0xF000, .draw⟩, by decide, rfl, by simp [OpcodeRow.selects, encode, and_F000]; decide⟩

theorem opEX9E (x : RegIdx) : Statement (.opEX9E x) :=
  ⟨⟨25, 0xE09E, 0xF0FF, .regSub⟩, by decide, rfl, by simp [OpcodeRow.selects, encode, and_F0FF]; decide⟩

theorem opEXA1 (x : RegIdx) : Statement (.opEXA1 x) :=
  ⟨⟨26, 0xE0A1, 0xF0FF, .regSub⟩, by decide, rfl, by simp [OpcodeRow.selects, encode, and_F0FF]; decide⟩

theorem opFX07 (x : RegIdx) : Statement (.opFX07 x) :=
  ⟨⟨27, 0xF007, 0xF0FF, .regSub⟩, by decide, rfl, by simp [OpcodeRow.selects, encode, and_F0FF]; decide⟩

theorem opFX0A (x : RegIdx) : Statement (.opFX0A x) :=
  ⟨⟨28, 0xF00A, 0xF0FF, .regSub⟩, by decide, rfl, by simp [OpcodeRow.selects, encode, and_F0FF]; decide⟩

theorem opFX15 (x : RegIdx) : Statement (.opFX15 x) :=
  ⟨⟨29, 0xF015, 0xF0FF, .regSub⟩, by decide, rfl, by simp [OpcodeRow.selects, encode, and_F0FF]; decide⟩

theorem opFX18 (x : RegIdx) : Statement (.opFX18 x) :=
  ⟨⟨30, 0xF018, 0xF0FF, .regSub⟩, by decide, rfl, by simp [OpcodeRow.selects, encode, and_F0FF]; decide⟩

theorem opFX1E (x : RegIdx) : Statement (.opFX1E x) :=
  ⟨⟨31, 0xF01E, 0xF0FF, .regSub⟩, by decide, rfl, by simp [OpcodeRow.selects, encode, and_F0FF]; decide⟩

theorem opFX29 (x : RegIdx) : Statement (.opFX29 x) :=
  ⟨⟨32, 0xF029, 0xF0FF, .regSub⟩, by decide, rfl, by simp [OpcodeRow.selects, encode, and_F0FF]; decide⟩

theorem opFX33 (x : RegIdx) : Statement (.opFX33 x) :=
  ⟨⟨33, 0xF033, 0xF0FF, .regSub⟩, by decide, rfl, by simp [OpcodeRow.selects, encode, and_F0FF]; decide⟩

theorem opFX55 (x : RegIdx) : Statement (.opFX55 x) :=
  ⟨⟨34, 0xF055, 0xF0FF, .regSub⟩, by decide, rfl, by simp [OpcodeRow.selects, encode, and_F0FF]; decide⟩

theorem opFX65 (x : RegIdx) : Statement (.opFX65 x) :=
  ⟨⟨35, 0xF065, 0xF0FF, .regSub⟩, by decide, rfl, by simp [OpcodeRow.selects, encode, and_F0FF]; decide⟩

end Sys2Proof.Laws.EncodeMatchesMapRow
end

