-- ==== Sys2Proof/Laws/Step.lean ====
section
/-! SUPPORT. What a fetch and a step can do, said once (30_encoding.md R70): every claim about steps is a case split over
`step_cases`. -/

namespace Sys2Proof.Machine

/-- A fetch succeeds exactly where PC is at most 0xFFE, and reads the two bytes at PC (20_memory.md R45). -/
theorem fetch_ok {s : State} (h : s.pc.toNat ≤ 0xFFE) : fetch s = .ok s.nextOpcode := by
  rw [fetch, firstBadAddr_none.2 (by simp only [memSize]; omega)]
  rfl

/-- A fetch past the end fails at the first address above 0xFFF (R45). -/
theorem fetch_bad {s : State} (h : 0xFFE < s.pc.toNat) :
    fetch s = .error (.addressOutOfRange s.pc none (max s.pc.toNat memSize)) := by
  rw [fetch, firstBadAddr_some (by omega) (by simp only [memSize]; omega)]

theorem step_running {s : State} (h : s.status = .running) : step s = runCycle s := by rw [step, h]

theorem step_faulted {s : State} {f : Fault} (h : s.status = .faulted f) : step s = .fault f := by rw [step, h]

/-- A core that fetches and decodes `i` executes it and ends the step. -/
theorem step_runsNext {s : State} {i : Instr} (h : RunsNext s i) : step s = finish s.nextOpcode (exec i s.clearOutputs) := by
  obtain ⟨h1, h2, h3⟩ := h
  rw [step_running h1, runCycle, fetch_ok h2]
  simp only [h3]

/-- The three things a step of a running core can do: fault at the fetch, fault at the decode, or execute. -/
theorem step_cases {s : State} (h : s.status = .running) :
    (0xFFE < s.pc.toNat ∧ step s = raise (.addressOutOfRange s.pc none (max s.pc.toNat memSize)) s) ∨
      (s.pc.toNat ≤ 0xFFE ∧ (∃ e, decode s.nextOpcode = .error e) ∧ step s = raise (.unknownInstruction s.pc s.nextOpcode) s) ∨
      ∃ i, RunsNext s i ∧ step s = finish s.nextOpcode (exec i s.clearOutputs) := by
  by_cases hp : s.pc.toNat ≤ 0xFFE
  · cases hd : decode s.nextOpcode with
    | error e =>
      refine .inr (.inl ⟨hp, ⟨e, rfl⟩, ?_⟩)
      rw [step_running h, runCycle, fetch_ok hp]
      simp only [hd]
    | ok i => exact .inr (.inr ⟨i, ⟨h, hp, hd⟩, step_runsNext ⟨h, hp, hd⟩⟩)
  · refine .inl ⟨by omega, ?_⟩
    rw [step_running h, runCycle, fetch_bad (by omega)]

/-- An execute phase that completes is followed by the end of step; one that raised a fault by nothing. -/
theorem finish_next (op : Word) (t : State) :
    finish op (.next t) = if t.status = .running then .next (t.endOfStep op) else .next t := rfl

/-- Where a finished step leads, its execute phase led. -/
theorem finish_eq_next {op : Word} {r : Result} {t : State} (h : finish op r = .next t) :
    ∃ u, r = .next u ∧ ((u.status = .running ∧ t = u.endOfStep op) ∨ (u.status ≠ .running ∧ t = u)) := by
  cases r with
  | next u =>
    refine ⟨u, rfl, ?_⟩
    rw [finish_next] at h
    split at h
    · exact .inl ⟨‹_›, by cases h; rfl⟩
    · exact .inr ⟨‹_›, by cases h; rfl⟩
  | fault f => simp [finish] at h
  | refused c => simp [finish] at h

/-! ## The host's table word -/

/-- The PC a table word is placed at is one a fetch is legal at. -/
theorem toNat_fetchablePc_le (pc : Word) : (fetchablePc pc).toNat ≤ 0xFFE := by
  unfold fetchablePc
  split
  · assumption
  · decide

/-- The opcode the next fetch reads after `placeOpcode` is the opcode placed. -/
theorem nextOpcode_placeOpcode {s : State} {op : Word} (h : s.mem.wf = true) : (s.placeOpcode op).nextOpcode = op := by
  have hp := toNat_fetchablePc_le s.pc
  have hl : (fetchablePc s.pc).toNat + [op.extractLsb' 8 8, op.extractLsb' 0 8].length ≤ memSize := by
    simp [memSize]; omega
  have r0 := Memory.read_writeBytes_inside h hl 0 (by simp)
  have r1 := Memory.read_writeBytes_inside h hl 1 (by simp)
  simp only [Nat.add_zero] at r0
  simp only [State.nextOpcode, State.placeOpcode, Memory.opcodeAt, r0, r1]
  exact opcodeOfBytes_halves op

/-- So a placed word that decodes is the instruction the next step runs. -/
theorem runsNext_withFetchWord {s : State} {nbits w : Nat} {i : Instr} (h : s.mem.wf = true)
    (hd : decode (wordOfTable nbits w) = .ok i) : RunsNext (s.withFetchWord nbits w) i :=
  ⟨rfl, toNat_fetchablePc_le s.pc, by rw [State.withFetchWord, nextOpcode_placeOpcode h, hd]⟩

end Sys2Proof.Machine
end

