-- ==== Sys2Proof/Tests/Slice0.lean ====
section
/-! SUPPORT. The model's own tests. The words are written out from 30_encoding.md R58 and R61; the expected results of single steps
are those of 95_test_vectors.md (its row is named in each docstring). Then one witness for each statement that has hypotheses, at
the boundary values of its clauses. -/

set_option Elab.async false

namespace Sys2Proof.Tests

open Sys2Proof Sys2Proof.Machine

/-! ## Helpers -/

/-- The power-on state with registers, PC 0x300 and the opcode there. -/
def at300 (op : Nat) (vs : List (RegIdx × Byte)) (s : State := State.reset) : State :=
  State.withFetchWord { vs.foldl (fun t p => t.setV p.1 p.2) s with pc := 0x300 } 16 op

/-- Bytes put into memory. -/
def poke (base : Nat) (bs : List Byte) (s : State) : State := s.setMem (s.mem.writeBytes base bs)

/-- What holds of the next state an outcome gives. -/
def after (r : Result) (p : State → Bool) : Bool :=
  match r with
  | .next t => p t
  | _ => false

/-! ## Well-formedness -/

/-- The one check of `Instr.wf`: the fault case does not stand for the words of 00E0 and 00EE (R61, R63). -/
theorem test_wf_refuses_op0NNN_of_00E0 : (Instr.op0NNN 0x0E0).wf = false := by decide
theorem test_wf_refuses_op0NNN_of_00EE : (Instr.op0NNN 0x0EE).wf = false := by decide
theorem test_wf_accepts_op0NNN_beside_them : (Instr.op0NNN 0x0E1).wf = true ∧ (Instr.op0NNN 0x000).wf = true := by decide

/-! ## Decoding: every constructor from a word written out, and back -/

theorem test_words_of_family_0 :
    decode 0b0000000011100000 = .ok .op00E0 ∧
    decode 0b0000000011101110 = .ok .op00EE ∧
    decode 0b0000101100010010 = .ok (.op0NNN 0xB12) ∧
    encode .op00E0 = 0b0000000011100000 ∧
    encode .op00EE = 0b0000000011101110 ∧
    encode (.op0NNN 0xB12) = 0b0000101100010010 := by decide

theorem test_words_of_family_1 :
    decode 0b0001101100010010 = .ok (.op1NNN 0xB12) ∧
    encode (.op1NNN 0xB12) = 0b0001101100010010 := by decide

theorem test_words_of_family_2 :
    decode 0b0010101100010010 = .ok (.op2NNN 0xB12) ∧
    encode (.op2NNN 0xB12) = 0b0010101100010010 := by decide

theorem test_words_of_family_3 :
    decode 0b0011100101111011 = .ok (.op3XNN 0x9 0x7B) ∧
    encode (.op3XNN 0x9 0x7B) = 0b0011100101111011 := by decide

theorem test_words_of_family_4 :
    decode 0b0100100101111011 = .ok (.op4XNN 0x9 0x7B) ∧
    encode (.op4XNN 0x9 0x7B) = 0b0100100101111011 := by decide

theorem test_words_of_family_5 :
    decode 0b0101100101100000 = .ok (.op5XY0 0x9 0x6) ∧
    encode (.op5XY0 0x9 0x6) = 0b0101100101100000 := by decide

theorem test_words_of_family_9 :
    decode 0b1001100101100000 = .ok (.op9XY0 0x9 0x6) ∧
    encode (.op9XY0 0x9 0x6) = 0b1001100101100000 := by decide

theorem test_words_of_family_6 :
    decode 0b0110100101111011 = .ok (.op6XNN 0x9 0x7B) ∧
    encode (.op6XNN 0x9 0x7B) = 0b0110100101111011 := by decide

theorem test_words_of_family_7 :
    decode 0b0111100101111011 = .ok (.op7XNN 0x9 0x7B) ∧
    encode (.op7XNN 0x9 0x7B) = 0b0111100101111011 := by decide

theorem test_words_of_family_8 :
    decode 0b1000100101100000 = .ok (.op8XY0 0x9 0x6) ∧
    decode 0b1000100101100001 = .ok (.op8XY1 0x9 0x6) ∧
    decode 0b1000100101100010 = .ok (.op8XY2 0x9 0x6) ∧
    decode 0b1000100101100011 = .ok (.op8XY3 0x9 0x6) ∧
    decode 0b1000100101100100 = .ok (.op8XY4 0x9 0x6) ∧
    decode 0b1000100101100101 = .ok (.op8XY5 0x9 0x6) ∧
    decode 0b1000100101100110 = .ok (.op8XY6 0x9 0x6) ∧
    decode 0b1000100101100111 = .ok (.op8XY7 0x9 0x6) ∧
    decode 0b1000100101101110 = .ok (.op8XYE 0x9 0x6) ∧
    encode (.op8XY0 0x9 0x6) = 0b1000100101100000 ∧
    encode (.op8XY1 0x9 0x6) = 0b1000100101100001 ∧
    encode (.op8XY2 0x9 0x6) = 0b1000100101100010 ∧
    encode (.op8XY3 0x9 0x6) = 0b1000100101100011 ∧
    encode (.op8XY4 0x9 0x6) = 0b1000100101100100 ∧
    encode (.op8XY5 0x9 0x6) = 0b1000100101100101 ∧
    encode (.op8XY6 0x9 0x6) = 0b1000100101100110 ∧
    encode (.op8XY7 0x9 0x6) = 0b1000100101100111 ∧
    encode (.op8XYE 0x9 0x6) = 0b1000100101101110 := by decide

theorem test_words_of_family_A :
    decode 0b1010101100010010 = .ok (.opANNN 0xB12) ∧
    encode (.opANNN 0xB12) = 0b1010101100010010 := by decide

theorem test_words_of_family_B :
    decode 0b1011101100010010 = .ok (.opBNNN 0xB12) ∧
    encode (.opBNNN 0xB12) = 0b1011101100010010 := by decide

theorem test_words_of_family_C :
    decode 0b1100100101111011 = .ok (.opCXNN 0x9 0x7B) ∧
    encode (.opCXNN 0x9 0x7B) = 0b1100100101111011 := by decide

theorem test_words_of_family_D :
    decode 0b1101100101100101 = .ok (.opDXYN 0x9 0x6 0x5) ∧
    encode (.opDXYN 0x9 0x6 0x5) = 0b1101100101100101 := by decide

theorem test_words_of_family_E :
    decode 0b1110100110011110 = .ok (.opEX9E 0x9) ∧
    decode 0b1110100110100001 = .ok (.opEXA1 0x9) ∧
    encode (.opEX9E 0x9) = 0b1110100110011110 ∧
    encode (.opEXA1 0x9) = 0b1110100110100001 := by decide

theorem test_words_of_family_F :
    decode 0b1111100100000111 = .ok (.opFX07 0x9) ∧
    decode 0b1111100100001010 = .ok (.opFX0A 0x9) ∧
    decode 0b1111100100010101 = .ok (.opFX15 0x9) ∧
    decode 0b1111100100011000 = .ok (.opFX18 0x9) ∧
    decode 0b1111100100011110 = .ok (.opFX1E 0x9) ∧
    decode 0b1111100100101001 = .ok (.opFX29 0x9) ∧
    decode 0b1111100100110011 = .ok (.opFX33 0x9) ∧
    decode 0b1111100101010101 = .ok (.opFX55 0x9) ∧
    decode 0b1111100101100101 = .ok (.opFX65 0x9) ∧
    encode (.opFX07 0x9) = 0b1111100100000111 ∧
    encode (.opFX0A 0x9) = 0b1111100100001010 ∧
    encode (.opFX15 0x9) = 0b1111100100010101 ∧
    encode (.opFX18 0x9) = 0b1111100100011000 ∧
    encode (.opFX1E 0x9) = 0b1111100100011110 ∧
    encode (.opFX29 0x9) = 0b1111100100101001 ∧
    encode (.opFX33 0x9) = 0b1111100100110011 ∧
    encode (.opFX55 0x9) = 0b1111100101010101 ∧
    encode (.opFX65 0x9) = 0b1111100101100101 := by decide

/-- 30_encoding.md R63 to R67: illegal words, at the edges of their ranges; 0x0000, 0x00E1 and 0x0123 are the 0NNN case. -/
theorem test_illegal_words :
    decode 0x5121 = .error .family5 ∧ decode 0x500F = .error .family5 ∧ decode 0x8018 = .error .family8 ∧
    decode 0x801D = .error .family8 ∧ decode 0x801F = .error .family8 ∧ decode 0x912F = .error .family9 ∧
    decode 0xE09F = .error .familyE ∧ decode 0xE0A0 = .error .familyE ∧ decode 0xF0FF = .error .familyF ∧
    decode 0xF000 = .error .familyF ∧ decode 0x0000 = .ok (.op0NNN 0x000) ∧ decode 0x00E1 = .ok (.op0NNN 0x0E1) ∧
    decode 0x0123 = .ok (.op0NNN 0x123) := by decide

/-- Bytes, high one first; a lone byte is no instruction (R56). -/
theorem test_decodeBytes :
    decodeBytes [0xA3, 0x00, 0x77] = .ok (.opANNN 0x300, [0x77]) ∧ decodeBytes [0xA3] = .error .truncated ∧
    decodeTableWord 16 0xF365 = some (.opFX65 0x3) ∧ decodeTableWord 16 0x5121 = none := by decide

/-! ## Single steps -/

/-- DI1: two cells on, then cleared. -/
theorem test_00E0 : after (step (at300 0x00E0 [] { State.reset with grid := (Grid.clear.toggle 0 0).toggle 63 31 })) (fun t => !t.grid.cell 0 0 && !t.grid.cell 63 31 && t.redraw && t.pc == 0x302 && t.readV 15 == 0) = true := by decide

/-- CF1. -/
theorem test_00EE : after (step (at300 0x00EE [] { State.reset with stack := State.reset.stack.set 0 0x204, sp := 1 })) (fun t => t.sp == 0 && t.pc == 0x206 && t.stack[0] == 0x204) = true := by decide

/-- CF2 (at 0x300). -/
theorem test_00EE_empty : after (step (at300 0x00EE [])) (fun t => t.status == .faulted (.stackUnderflow 0x300 0x00EE) && t.pc == 0x300) = true := by decide

/-- CF4. -/
theorem test_0NNN : after (step (at300 0x0123 [])) (fun t => t.status == .faulted (.unknownInstruction 0x300 0x0123) && t.pc == 0x300) = true := by decide

/-- HO5: a step right after power-on. -/
theorem test_0NNN_zero : after (step State.reset) (fun t => t.status == .faulted (.unknownInstruction 0x200 0x0000)) = true := by decide

/-- CF8. -/
theorem test_1NNN : after (step (at300 0x1ABC [])) (fun t => t.pc == 0xABC) = true := by decide

/-- CF12: the sixteenth push. -/
theorem test_2NNN : after (step (at300 0x2400 [] { State.reset with sp := 15 })) (fun t => t.stack[15] == 0x300 && t.sp == 16 && t.pc == 0x400) = true := by decide

/-- CF11. -/
theorem test_2NNN_full : after (step (at300 0x2210 [] { State.reset with sp := 16 })) (fun t => t.status == .faulted (.stackOverflow 0x300 0x2210) && t.pc == 0x300 && t.sp == 16) = true := by decide

/-- CF13. -/
theorem test_3XNN : after (step (at300 0x3342 [(3, 0x42)])) (fun t => t.pc == 0x304) = true := by decide

/-- CF14. -/
theorem test_3XNN_fails : after (step (at300 0x3341 [(3, 0x42)])) (fun t => t.pc == 0x302) = true := by decide

/-- CF16. -/
theorem test_4XNN : after (step (at300 0x4300 [(3, 0x42)])) (fun t => t.pc == 0x304) = true := by decide

/-- CF15. -/
theorem test_4XNN_fails : after (step (at300 0x4342 [(3, 0x42)])) (fun t => t.pc == 0x302) = true := by decide

/-- CF17. -/
theorem test_5XY0 : after (step (at300 0x5120 [(1, 7), (2, 7)])) (fun t => t.pc == 0x304) = true := by decide

/-- CF18. -/
theorem test_5XY0_fails : after (step (at300 0x5120 [(1, 7), (2, 8)])) (fun t => t.pc == 0x302) = true := by decide

/-- CF21. -/
theorem test_9XY0 : after (step (at300 0x9120 [(1, 7), (2, 8)])) (fun t => t.pc == 0x304) = true := by decide

/-- CF22. -/
theorem test_9XY0_fails : after (step (at300 0x9120 [(1, 7), (2, 7)])) (fun t => t.pc == 0x302) = true := by decide

/-- AL1. -/
theorem test_6XNN : after (step (at300 0x6A7B [])) (fun t => t.readV 0xA == 0x7B && t.pc == 0x302) = true := by decide

/-- AL3: no carry flag. -/
theorem test_7XNN : after (step (at300 0x7020 [(0, 0xF0)])) (fun t => t.readV 0 == 0x10 && t.readV 15 == 0) = true := by decide

/-- AL5. -/
theorem test_7XNN_VF : after (step (at300 0x7F01 [(15, 0xFF)])) (fun t => t.readV 15 == 0) = true := by decide

/-- AL6. -/
theorem test_8XY0 : after (step (at300 0x8010 [(1, 0x33)])) (fun t => t.readV 0 == 0x33 && t.readV 1 == 0x33) = true := by decide

/-- AL7: VF kept. -/
theorem test_8XY1 : after (step (at300 0x8011 [(0, 0xF0), (1, 0x0F), (15, 5)])) (fun t => t.readV 0 == 0xFF && t.readV 15 == 5) = true := by decide

/-- AL8. -/
theorem test_8XY2 : after (step (at300 0x8012 [(0, 0xF0), (1, 0x3C), (15, 7)])) (fun t => t.readV 0 == 0x30 && t.readV 15 == 7) = true := by decide

/-- AL9. -/
theorem test_8XY3 : after (step (at300 0x8013 [(0, 0xFF), (1, 0x0F)])) (fun t => t.readV 0 == 0xF0) = true := by decide

/-- AL12: a sum of exactly 255. -/
theorem test_8XY4 : after (step (at300 0x8014 [(0, 0x7F), (1, 0x80), (15, 1)])) (fun t => t.readV 0 == 0xFF && t.readV 15 == 0) = true := by decide

/-- AL14: the flag wins. -/
theorem test_8XY4_VF : after (step (at300 0x8F14 [(15, 0x80), (1, 0x90)])) (fun t => t.readV 15 == 1) = true := by decide

/-- AL17. -/
theorem test_8XY5 : after (step (at300 0x8015 [(0, 0), (1, 1)])) (fun t => t.readV 0 == 0xFF && t.readV 15 == 0) = true := by decide

/-- AL18. -/
theorem test_8XY5_equal : after (step (at300 0x8015 [(0, 0x42), (1, 0x42)])) (fun t => t.readV 0 == 0 && t.readV 15 == 1) = true := by decide

/-- AL20: the source is VY. -/
theorem test_8XY6 : after (step (at300 0x8106 [(0, 0xFF)])) (fun t => t.readV 1 == 0x7F && t.readV 15 == 1 && t.readV 0 == 0xFF) = true := by decide

/-- AL21. -/
theorem test_8XY6_even : after (step (at300 0x8106 [(0, 2), (1, 0x99)])) (fun t => t.readV 1 == 1 && t.readV 15 == 0) = true := by decide

/-- AL24. -/
theorem test_8XY7 : after (step (at300 0x8017 [(0, 5), (1, 3)])) (fun t => t.readV 0 == 0xFE && t.readV 15 == 0) = true := by decide

/-- AL25. -/
theorem test_8XY7_no_borrow : after (step (at300 0x8017 [(0, 3), (1, 5)])) (fun t => t.readV 0 == 2 && t.readV 15 == 1) = true := by decide

/-- AL28. -/
theorem test_8XYE : after (step (at300 0x821E [(1, 0x80)])) (fun t => t.readV 2 == 0 && t.readV 15 == 1) = true := by decide

/-- AL30: the flag wins. -/
theorem test_8XYE_VF : after (step (at300 0x8F1E [(15, 0), (1, 0xC1)])) (fun t => t.readV 15 == 1) = true := by decide

/-- IM1. -/
theorem test_ANNN : after (step (at300 0xA300 [])) (fun t => t.index == 0x300 && t.pc == 0x302) = true := by decide

/-- CF24. -/
theorem test_BNNN : after (step (at300 0xB300 [(0, 0x10)])) (fun t => t.pc == 0x310) = true := by decide

/-- CF25. -/
theorem test_BNNN_unreduced : after (step (at300 0xBFFF [(0, 0xFF)])) (fun t => t.pc == 0x10FE) = true := by decide

/-- IM3: wraps, no flag. -/
theorem test_FX1E : after (step (at300 0xF21E [(2, 1), (15, 0x33)] { State.reset with index := 0xFFFF })) (fun t => t.index == 0 && t.readV 15 == 0x33) = true := by decide

/-- IM6. -/
theorem test_FX29 : after (step (at300 0xF229 [(2, 0xF)])) (fun t => t.index == 0x9B) = true := by decide

/-- IM8. -/
theorem test_FX29_unmasked : after (step (at300 0xF229 [(2, 0xFF)])) (fun t => t.index == 0x54B) = true := by decide

/-- IM12: the highest base. -/
theorem test_FX33 : after (step (at300 0xF033 [(0, 0x2A)] (poke 0xFFD [9, 9, 9] { State.reset with index := 0xFFD }))) (fun t => t.mem.readBytes 0xFFD 3 == [0, 4, 2] && t.index == 0xFFD && t.mem.wf) = true := by decide

/-- IM13. -/
theorem test_FX33_faults : after (step (at300 0xF033 [(0, 0x2A)] (poke 0xFFE [0xAA] { State.reset with index := 0xFFE }))) (fun t => t.status == .faulted (.addressOutOfRange 0x300 (some 0xF033) 0x1000) && t.mem.read 0xFFE == 0xAA) = true := by decide

/-- IM14. -/
theorem test_FX55 : after (step (at300 0xF355 [(0, 0x11), (1, 0x22), (2, 0x33), (3, 0x44)] { State.reset with index := 0x400 })) (fun t => t.mem.readBytes 0x400 5 == [0x11, 0x22, 0x33, 0x44, 0] && t.index == 0x404) = true := by decide

/-- IM16. -/
theorem test_FX55_faults : after (step (at300 0xFF55 [(0, 1)] { State.reset with index := 0xFF1 })) (fun t => t.status == .faulted (.addressOutOfRange 0x300 (some 0xFF55) 0x1000) && t.index == 0xFF1 && t.mem.read 0xFF1 == 0) = true := by decide

/-- IM18. -/
theorem test_FX65 : after (step (at300 0xF265 [(3, 9)] (poke 0x320 [1, 2, 3, 4] { State.reset with index := 0x320 }))) (fun t => t.readV 0 == 1 && t.readV 1 == 2 && t.readV 2 == 3 && t.readV 3 == 9 && t.index == 0x323) = true := by decide

/-- IM21. -/
theorem test_FX65_faults : after (step (at300 0xF065 [(0, 7)] { State.reset with index := 0xFFFF })) (fun t => t.status == .faulted (.addressOutOfRange 0x300 (some 0xF065) 0xFFFF) && t.readV 0 == 7) = true := by decide

/-- DI3: one cell on before. -/
theorem test_DXYN : after (step (at300 0xD011 [(0, 0x3C), (1, 1)] (poke 0x20E [0xF0] { State.reset with index := 0x20E, grid := Grid.clear.toggle 61 1 }))) (fun t => t.grid.cell 60 1 && !t.grid.cell 61 1 && t.grid.cell 62 1 && t.grid.cell 63 1 && !t.grid.cell 0 1 && t.readV 15 == 1 && t.redraw) = true := by decide

/-- DI6. -/
theorem test_DXYN_wraps : after (step (at300 0xD012 [(0, 5), (1, 0x1F), (15, 1)] (poke 0x500 [0x80, 0x80] { State.reset with index := 0x500 }))) (fun t => t.grid.cell 5 31 && t.grid.cell 5 0 && !t.grid.cell 6 0 && !t.grid.cell 5 1 && t.readV 15 == 0) = true := by decide

/-- KT1. -/
theorem test_EX9E : after (step (at300 0xE59E [(5, 0xA)] (setKey 0xA true State.reset))) (fun t => t.pc == 0x304) = true := by decide

/-- KT5. -/
theorem test_EX9E_faults : after (step (at300 0xE59E [(5, 0x10)])) (fun t => t.status == .faulted (.keyIndexOutOfRange 0x300 0xE59E 0x10) && t.pc == 0x300) = true := by decide

/-- KT3. -/
theorem test_EXA1 : after (step (at300 0xE5A1 [(5, 0xA)] (setKey 0xA true State.reset))) (fun t => t.pc == 0x302) = true := by decide

/-- KT4. -/
theorem test_EXA1_up : after (step (at300 0xE5A1 [(5, 0xA)])) (fun t => t.pc == 0x304) = true := by decide

/-- KT8. -/
theorem test_FX07 : after (step (at300 0xF007 [] { State.reset with dt := 2 })) (fun t => t.readV 0 == 2 && t.dt == 1) = true := by decide

/-- KT12 and KT10. -/
theorem test_FX0A_waits : after (step (at300 0xF20A [(2, 0x55)] { State.reset with dt := 5, st := 1 })) (fun t => t.pc == 0x300 && t.readV 2 == 0x55 && t.dt == 4 && t.st == 0 && t.beep) = true := by decide

/-- KT11. -/
theorem test_FX0A : after (step (at300 0xF20A [] { State.reset with latch := some 0xA })) (fun t => t.pc == 0x302 && t.readV 2 == 0xA && t.latch == none) = true := by decide

/-- KT13. -/
theorem test_FX15 : after (step (at300 0xF115 [(1, 3)])) (fun t => t.dt == 2) = true := by decide

/-- KT16. -/
theorem test_FX18 : after (step (at300 0xF118 [(1, 1)])) (fun t => t.st == 0 && t.beep) = true := by decide

/-- KT17. -/
theorem test_FX18_zero : after (step (at300 0xF118 [(1, 0)] { State.reset with st := 1 })) (fun t => t.st == 0 && !t.beep) = true := by decide

/-- FE1. -/
theorem test_fetch_at_FFF : after (step { State.reset with pc := 0xFFF }) (fun t => t.status == .faulted (.addressOutOfRange 0xFFF none 0x1000)) = true := by decide

/-- FE3: the last legal fetch. -/
theorem test_fetch_at_FFE : after (step (poke 0xFFE [0x60, 0x01] { State.reset with pc := 0xFFE })) (fun t => t.readV 0 == 1 && t.pc == 0x1000) = true := by decide

/-- KT21. -/
theorem test_fault_keeps_timers_and_latch : after (step (at300 0x0000 [] { State.reset with st := 1, dt := 3, latch := some 2 })) (fun t => t.st == 1 && t.dt == 3 && t.latch == some 2 && !t.beep) = true := by decide

/-- AL32, AL33: one draw, also where NN is 0; the word drawn is not known. -/
theorem test_CXNN : ∃ t, step (at300 0xC300 [(3, 0x55)]) = .next t ∧ t.readV 3 = 0 ∧ t.rng = (Config.rngNext Config.rngSeed).1 := by
  refine ⟨_, rfl, ?_, rfl⟩
  show (State.reset.randomByte &&& 0x00#8) = 0#8
  simp

/-! ## The other values of the two policies -/

/-- DI5, DI7: under Clip a pixel past the right or the bottom edge is dropped. -/
theorem test_blit_clips :
    (blit .clip 0x3C 0 [0xFF] Grid.clear).1.cell 63 0 = true ∧ (blit .clip 0x3C 0 [0xFF] Grid.clear).1.cell 0 0 = false ∧
    (blit .clip 5 0x1F [0x80, 0x80] Grid.clear).1.cell 5 31 = true ∧
    (blit .clip 5 0x1F [0x80, 0x80] Grid.clear).1.cell 5 0 = false := by decide

/-- AL28, AL29. -/
theorem test_shlFlag : shlFlag .normalized 0x80 = 0x01 ∧ shlFlag .rawBit 0x80 = 0x80 ∧ shlFlag .rawBit 0x7F = 0x00 := by decide

/-! ## Host operations -/

/-- HO1. -/
theorem test_loadProgram :
    (match loadProgram [0xAB] { State.reset.setV 3 9 with dt := 4, sp := 2, index := 5, pc := 0x400 } with
      | .ok t => t.readV 3 == 9 && t.dt == 4 && t.sp == 0 && t.index == 0 && t.pc == 0x200 && t.mem.read 0x200 == 0xAB
      | .error _ => false) = true := by decide

/-- HO4. -/
theorem test_installFontset :
    (match installFontset [0x11, 0x22] State.reset with
      | .ok t => t.mem.readBytes 0x050 3 == [0x11, 0x22, 0x90]
      | .error _ => false) = true := by decide

/-- HO7: the latest press, and a release that leaves the latch. -/
theorem test_setKey :
    let s := setKey 7 false (setKey 7 true (setKey 5 true State.reset))
    s.latch = some 7 ∧ s.readKey 7 = false ∧ s.readKey 5 = true := by decide

/-- Writing the power-on value of an address takes it off the list. -/
theorem test_memory_is_canonical :
    (Memory.write [] 0x300 5).write 0x300 0 = [] ∧ Memory.write [] 0x050 0xF0 = [] ∧
    Memory.write [(0x300, 5)] 0x2FF 6 = [(0x2FF, 6), (0x300, 5)] := by decide

/-! ## Witnesses: concrete states and operands that meet a statement's hypotheses -/

theorem witness_DecodeOfEncodeGivesTheInstructionBack :
    (Instr.op0NNN 0xFFF).WellFormed ∧ (Instr.op8XYE 15 15).WellFormed ∧ (Instr.opFX65 0).WellFormed := by decide

theorem witness_EncodeOfDecodeGivesTheWordBack : decode 0xFF65 = .ok (.opFX65 15) := by decide

theorem witness_DecodeSelectsExactlyTheMapCase :
    ∃ r ∈ opcodeMap, r.selects 0x8FF4 = true ∧ r.caseNo ≠ 3 := ⟨⟨16, 0x8004, 0xF00F, .regReg⟩, by decide, by decide, by decide⟩

/-- One illegal word of each family, fetched at the last legal PC. -/
def illegalAt (op : Nat) : State := State.withFetchWord { State.reset with pc := 0xFFE } 16 op

theorem illegalAt_fetches (op : Nat) : (illegalAt op).status = .running ∧ (illegalAt op).pc.toNat ≤ 0xFFE :=
  ⟨rfl, toNat_fetchablePc_le _⟩

theorem witness_IllegalWordsOfFamilies8EFRaiseUnknownInstruction :
    ((illegalAt 0x8FFF).nextOpcode = 0x8FFF ∧ fieldN1 0x8FFF = 0x8 ∧ fieldN 0x8FFF ∈ [0x8#4, 0x9, 0xA, 0xB, 0xC, 0xD, 0xF]) ∧
    ((illegalAt 0xE000).nextOpcode = 0xE000 ∧ fieldN1 0xE000 = 0xE ∧ fieldNN 0xE000 ∉ [0x9E#8, 0xA1]) ∧
    ((illegalAt 0xFFFF).nextOpcode = 0xFFFF ∧ fieldN1 0xFFFF = 0xF ∧
      fieldNN 0xFFFF ∉ [0x07#8, 0x0A, 0x15, 0x18, 0x1E, 0x29, 0x33, 0x55, 0x65]) := by decide

theorem witness_IllegalWordsOfFamilies059RaiseUnknownInstruction :
    ((illegalAt 0x0000).nextOpcode = 0x0000 ∧ fieldN1 0x0000 = 0x0) ∧
    ((illegalAt 0x0FFF).nextOpcode = 0x0FFF ∧ fieldN1 0x0FFF = 0x0) ∧
    ((illegalAt 0x5FF1).nextOpcode = 0x5FF1 ∧ fieldN1 0x5FF1 = 0x5 ∧ fieldN 0x5FF1 ≠ 0x0) ∧
    ((illegalAt 0x900F).nextOpcode = 0x900F ∧ fieldN1 0x900F = 0x9 ∧ fieldN 0x900F ≠ 0x0) := by decide

/-- A completing and a faulting instruction at the last legal PC. -/
theorem witness_StepExecutesTheDecodedInstruction :
    (∃ t, RunsNext (illegalAt 0x6001) (.op6XNN 0 1) ∧
      exec (.op6XNN 0 1) { illegalAt 0x6001 with beep := false, redraw := false } = .next t ∧ t.status = .running) ∧
    (∃ t, RunsNext (illegalAt 0x00EE) .op00EE ∧
      exec .op00EE { illegalAt 0x00EE with beep := false, redraw := false } = .next t ∧ t.status ≠ .running) :=
  ⟨⟨_, ⟨rfl, by decide, by decide⟩, rfl, rfl⟩, ⟨_, ⟨rfl, by decide, by decide⟩, rfl, by decide⟩⟩

/-- A completed step: a draw of no row, with ST at 1. -/
theorem witness_CompletedStepTicksClearsTheLatchAndRecordsTheOpcode :
    ∃ s t, s.status = .running ∧ s.st = 1 ∧ step s = .next t ∧ t.status = .running ∧ t.redraw = true ∧ t.beep = true :=
  ⟨at300 0xD120 [] { State.reset with st := 1, latch := some 3 }, _, rfl, rfl, rfl, by decide, by decide, by decide⟩

/-- A waiting FX0A writes neither timer. -/
theorem witness_EveryCompletedStepTicksBothTimersOnce :
    ∃ s t, s.status = .running ∧ step s = .next t ∧ t.status = .running ∧
      (∀ x, ¬ RunsNext s (.opFX15 x)) ∧ ∀ x, ¬ RunsNext s (.opFX18 x) := by
  have e : decode (at300 0xF20A [] { State.reset with dt := 5, st := 1 }).nextOpcode = .ok (.opFX0A 2) := by decide
  refine ⟨at300 0xF20A [] { State.reset with dt := 5, st := 1 }, _, rfl, rfl, by decide, fun x h => ?_, fun x h => ?_⟩
  all_goals exact absurd (e.symm.trans h.2.2) (by simp)

theorem witness_RunningCoreAlwaysStepsToANextState : State.reset.status = .running := rfl

theorem witness_FetchPastTheEndOfMemoryFaults :
    ({ State.reset with pc := 0x0FFF } : State).status = .running ∧ 0xFFF ≤ ({ State.reset with pc := 0x0FFF } : State).pc.toNat ∧
    0xFFF ≤ ({ State.reset with pc := 0x1000 } : State).pc.toNat := by decide

/-- A fault with an opcode in its record, and a fault of the fetch. -/
theorem witness_FaultingStepChangesOnlyTheStatus :
    (∃ s t, s.status = .running ∧ step s = .next t ∧ t.status = .faulted (.unknownInstruction 0x200 0x0000)) ∧
    (∃ s t, s.status = .running ∧ step s = .next t ∧ t.status = .faulted (.addressOutOfRange 0x0FFF none 0x1000)) :=
  ⟨⟨State.reset, _, rfl, rfl, by decide⟩, ⟨{ State.reset with pc := 0x0FFF }, _, rfl, rfl, by decide⟩⟩

theorem witness_FaultedCoreIsStuckUntilPowerOn :
    ({ State.reset with status := .faulted (.stackUnderflow 0x200 0x00EE) } : State).status =
      .faulted (.stackUnderflow 0x200 0x00EE) ∧ HostOp.setKey 1 true ≠ .powerOn := by decide

/-- A step that raises each kind, at the boundary of its cause. -/
theorem witness_EveryFaultHasTheCauseItsKindNames :
    after (step (at300 0x00EE [])) (fun t => t.status == .faulted (.stackUnderflow 0x300 0x00EE)) = true ∧
    after (step (at300 0x2210 [] { State.reset with sp := 16 })) (fun t => t.status == .faulted (.stackOverflow 0x300 0x2210)) = true ∧
    after (step (at300 0x00E1 [])) (fun t => t.status == .faulted (.unknownInstruction 0x300 0x00E1)) = true ∧
    after (step (at300 0xD011 [] { State.reset with index := 0x1000 }))
      (fun t => t.status == .faulted (.addressOutOfRange 0x300 (some 0xD011) 0x1000)) = true ∧
    after (step (at300 0xF033 [] { State.reset with index := 0xFFE }))
      (fun t => t.status == .faulted (.addressOutOfRange 0x300 (some 0xF033) 0x1000)) = true ∧
    after (step (at300 0xF055 [] { State.reset with index := 0xFFFF }))
      (fun t => t.status == .faulted (.addressOutOfRange 0x300 (some 0xF055) 0xFFFF)) = true ∧
    after (step (at300 0xE0A1 [(0, 0x10)])) (fun t => t.status == .faulted (.keyIndexOutOfRange 0x300 0xE0A1 0x10)) = true := by
  decide

theorem inv_reset : Inv State.reset := ⟨rfl, by decide, by decide⟩

/-- PC and a stack entry at the bounds of the invariant: BNNN at 0xFFE to 0x10FE. -/
theorem witness_StepKeepsMemoryCanonicalAndPcBounded :
    ∃ s t, Inv s ∧ s.stack[15] = 0xFFE ∧ step s = .next t ∧ t.pc = 0x10FE :=
  ⟨State.withFetchWord { State.reset.setV 0 0xFF with pc := 0xFFE, stack := State.reset.stack.set 15 0xFFE } 16 0xBFFF, _,
    ⟨by decide, by decide, by decide⟩, rfl, rfl, by decide⟩

theorem witness_HostOperationsKeepMemoryCanonicalAndPcBounded : Inv State.reset := inv_reset

theorem witness_EveryReachableStateMeetsTheInvariant : Reachable ((HostOp.setKey 3 true).after State.reset) :=
  .host _ .powerOn

theorem witness_KeysAreMutatedOnlyByTheHost :
    (∃ t, step (at300 0x6001 []) = .next t) ∧ HostOp.setKey 15 true ≠ .powerOn ∧ HostOp.loadProgram [] ≠ .powerOn :=
  ⟨⟨_, rfl⟩, by decide, by decide⟩

/-- A step that draws, and one that does not. -/
theorem witness_OnlyTheRandomInstructionAdvancesTheGenerator :
    (∃ t, step (at300 0xC300 []) = .next t ∧ RunsNext (at300 0xC300 []) (.opCXNN 3 0)) ∧
    (∃ t, step (at300 0x6001 []) = .next t ∧ ∀ x nn, ¬ RunsNext (at300 0x6001 []) (.opCXNN x nn)) ∧
    HostOp.installFontset [] ≠ .powerOn := by
  refine ⟨⟨_, rfl, rfl, by decide, by decide⟩, ⟨_, rfl, fun x nn h => ?_⟩, by decide⟩
  have e : decode (at300 0x6001 []).nextOpcode = .ok (.op6XNN 0 1) := by decide
  exact absurd (e.symm.trans h.2.2) (by simp)

/-- Completing execute phases of one storing, one register and one waiting instruction. -/
theorem witness_InstructionsWriteOnlyWhatTheirRulesName :
    (∃ t, exec (.opFX33 0) { State.reset with index := 0xFFD } = .next t ∧ t.status = .running) ∧
    (∃ t, exec (.op8XY4 15 15) State.reset = .next t ∧ t.status = .running) ∧
    (∃ t, exec (.opFX0A 0) State.reset = .next t ∧ t.status = .running) :=
  ⟨⟨_, rfl, by decide⟩, ⟨_, rfl, by decide⟩, ⟨_, rfl, by decide⟩⟩

/-- A register beside the written ones: the one after X, and VX itself where no key is latched. -/
theorem witness_GeneralRegistersHaveOnlyTheirNamedWriters :
    (∃ t, exec (.opFX65 14) { State.reset with index := 0xFF1 } = .next t) ∧ mayWriteV (.opFX65 14) State.reset 15 = false ∧
    (∃ t, exec (.opFX0A 3) State.reset = .next t) ∧ mayWriteV (.opFX0A 3) State.reset 3 = false ∧
    HostOp.setKey 0 true ≠ .powerOn :=
  ⟨⟨_, rfl⟩, by decide, ⟨_, rfl⟩, by decide, by decide⟩

/-- The bytes next to the stored ones, below and above. -/
theorem witness_OnlyTheStoredBytesOfMemoryChange :
    (∃ t, exec (.opFX33 0) { State.reset with index := 0x400 } = .next t) ∧
    storeSpan (.opFX33 0) { State.reset with index := 0x400 } = (0x400, 3) ∧
    storeSpan (.opFX55 15) { State.reset with index := 0xFF0 } = (0xFF0, 16) ∧
    (storeSpan (.op6XNN 0 0) State.reset).2 = 0 := ⟨⟨_, rfl⟩, by decide, by decide, by decide⟩

theorem witness_ReturnGoesTwoPastTheTopStackEntry :
    ({ State.reset with sp := 1 } : State).sp.val ≠ 0 ∧ ({ State.reset with sp := 16 } : State).sp.val ≠ 0 := by decide

theorem witness_ReturnOnAnEmptyStackFaults : State.reset.sp = 0 := rfl

theorem witness_CallPushesItsOwnAddressAndJumps :
    State.reset.sp.val < 16 ∧ ({ State.reset with sp := 15 } : State).sp.val < 16 := by decide

theorem witness_SixteenCallsSucceedAndTheSeventeenthOverflows :
    ({ State.reset with sp := 16 } : State).sp = 16 ∧ State.reset.status = .running ∧ State.reset.sp = 0 ∧ (List.replicate 16 (0x200 : Addr12)).length = 16 := by decide

theorem witness_CallThenReturnResumesAfterTheCall : ({ State.reset with sp := 15 } : State).sp.val < 16 := by decide

/-- I at the last legal base and one past it. -/
theorem witness_BcdStoresThreeDigitsOrFaults :
    State.reset.mem.wf = true ∧ ({ State.reset with index := 0xFFD } : State).index.toNat + 2 ≤ 0xFFF ∧
    0xFFF < ({ State.reset with index := 0xFFE } : State).index.toNat + 2 := by decide

theorem witness_StoreRegistersWritesTheBlockOrFaults :
    State.reset.mem.wf = true ∧ ({ State.reset with index := 0xFF0 } : State).index.toNat + (15 : RegIdx).toNat ≤ 0xFFF ∧
    0xFFF < ({ State.reset with index := 0xFF1 } : State).index.toNat + (15 : RegIdx).toNat := by decide

theorem witness_LoadRegistersReadsTheBlockOrFaults :
    ({ State.reset with index := 0xFFF } : State).index.toNat + (0 : RegIdx).toNat ≤ 0xFFF ∧
    0xFFF < ({ State.reset with index := 0x1000 } : State).index.toNat + (0 : RegIdx).toNat := by decide

/-- The second state has other registers, the memory of the first store and the first I. -/
theorem witness_StoreThenLoadRestoresTheRegisters :
    ∃ s t w : State, s.mem.wf = true ∧ s.index.toNat + (3 : RegIdx).toNat ≤ 0xFFF ∧ exec (.opFX55 3) s = .next t ∧
      w.mem = t.mem ∧ w.index = s.index ∧ w.readV 0 ≠ s.readV 0 :=
  ⟨State.setV { State.reset with index := 0xFFC } 0 0x11, _,
    { State.reset with index := 0xFFC, mem := [(0xFFC, 0x11)] }, by decide, by decide, rfl, by decide, by decide, by decide⟩

/-- N = 0 at any I, and the last sprite that fits. -/
theorem witness_DrawTogglesTheStruckCellsAndFlagsCollision :
    (0 : Nibble).toNat = 0 ∧ ({ State.reset with index := 0xFF1 } : State).index.toNat + (15 : Nibble).toNat ≤ 0x1000 := by decide

theorem witness_DrawPastTheEndOfMemoryFaults :
    0 < (1 : Nibble).toNat ∧ 0xFFF < ({ State.reset with index := 0x1000 } : State).index.toNat + (1 : Nibble).toNat - 1 ∧
    0xFFF < ({ State.reset with index := 0xFFF } : State).index.toNat + (2 : Nibble).toNat - 1 := by decide

/-- The glyph of 0 (its power-on bytes), drawn twice from the state the first draw leaves. -/
theorem witness_DrawingTheSameSpriteTwiceRestoresEveryCell :
    ∃ s t u : State, s.index.toNat + (1 : Nibble).toNat ≤ 0x1000 ∧ exec (.opDXYN 0 1 1) s = .next t ∧ t.index = s.index ∧
      t.mem = s.mem ∧ t.readV 0 = s.readV 0 ∧ t.readV 1 = s.readV 1 ∧ exec (.opDXYN 0 1 1) t = .next u :=
  ⟨{ State.reset with index := 0x050 }, _, _, by decide, rfl, rfl, rfl, by decide, by decide, rfl⟩

theorem witness_BlitIsItsOwnInverseUnderEitherEdgePolicy : (List.replicate 15 (0xFF : Byte)).length ≤ 15 := by decide

/-- VX at 15 and at 16. -/
theorem witness_KeySkipsReadTheFlagOrFault :
    ((State.reset.setV 5 15).readV 5).toNat = (15 : KeyIdx).toNat ∧ 15 < ((State.reset.setV 5 16).readV 5).toNat := by decide

theorem witness_KeyWaitTakesTheLatchedKeyOrHolds :
    ({ State.reset with latch := some 15 } : State).latch = some 15 ∧ State.reset.latch = none ∧
    RunsNext (at300 0xFF0A []) (.opFX0A 15) := ⟨rfl, rfl, rfl, by decide, by decide⟩

theorem witness_KeyWaitHoldsForAnyNumberOfStepsUntilAKeyIsPressed :
    RunsNext (at300 0xF20A [] { State.reset with dt := 5, st := 1 }) (.opFX0A 2) ∧
    (at300 0xF20A [] { State.reset with dt := 5, st := 1 }).latch = none := ⟨⟨rfl, by decide, by decide⟩, rfl⟩

theorem witness_TimerWritesTakeVXAndAreTickedInTheSameStep :
    RunsNext (at300 0xF115 []) (.opFX15 1) ∧ RunsNext (at300 0xF118 [(1, 1)]) (.opFX18 1) :=
  ⟨⟨rfl, by decide, by decide⟩, ⟨rfl, by decide, by decide⟩⟩

theorem witness_InstallFontsetCopiesOrFails :
    State.reset.mem.wf = true ∧ (List.replicate 80 (0 : Byte)).length ≤ 80 ∧ 80 < (List.replicate 81 (0 : Byte)).length := by
  simp only [List.length_replicate]; decide

theorem witness_LoadProgramFailsExactlyAboveItsCapacity :
    (List.replicate 3584 (0 : Byte)).length ≤ 3584 ∧ 3584 < (List.replicate 3585 (0 : Byte)).length := by
  simp only [List.length_replicate]; decide

theorem witness_LoadProgramCopiesAndResetsPcIndexAndStack :
    ∃ t, State.reset.mem.wf = true ∧ loadProgram [0x12, 0x00] State.reset = .ok t ∧ 2 ≤ [(0x12 : Byte), 0x00].length :=
  ⟨_, by decide, rfl, by decide⟩

end Sys2Proof.Tests
end

/-! # Control flow (40_control_flow.md): the jump and the register skips -/

namespace Sys2Proof.Machine

/-! ## The word of an instruction under its row's mask (30_encoding.md R61) -/

/-- The mask 0xF000 leaves an ADDR word's first nibble. -/
theorem asmNNN_and_F000 (n1 : Nibble) (nnn : Addr12) : asmNNN n1 nnn &&& 0xF000#16 = asmNNN n1 0 := by
  rw [and_F000, fieldN1_asmNNN]

/-- The mask 0xF000 leaves a REG_IMM word's first nibble. -/
theorem asmXNN_and_F000 (n1 : Nibble) (x : RegIdx) (nn : Byte) : asmXNN n1 x nn &&& 0xF000#16 = asmNNN n1 0 := by
  rw [and_F000, fieldN1_asmXNN]

/-- The mask 0xF00F leaves a REG_REG word's first and last nibbles. -/
theorem asmXYN_and_F00F (n1 n : Nibble) (x y : RegIdx) : asmXYN n1 x y n &&& 0xF00F#16 = asmXYN n1 0 0 n := by
  rw [and_F00F, fieldN1_asmXYN, fieldN_asmXYN]

theorem encode_op1NNN_and_F000 (nnn : Addr12) : encode (.op1NNN nnn) &&& 0xF000 = 0x1000 :=
  (asmNNN_and_F000 0x1 nnn).trans (by decide)

theorem encode_op3XNN_and_F000 (x : RegIdx) (nn : Byte) : encode (.op3XNN x nn) &&& 0xF000 = 0x3000 :=
  (asmXNN_and_F000 0x3 x nn).trans (by decide)

theorem encode_op4XNN_and_F000 (x : RegIdx) (nn : Byte) : encode (.op4XNN x nn) &&& 0xF000 = 0x4000 :=
  (asmXNN_and_F000 0x4 x nn).trans (by decide)

theorem encode_op5XY0_and_F00F (x y : RegIdx) : encode (.op5XY0 x y) &&& 0xF00F = 0x5000 :=
  (asmXYN_and_F00F 0x5 0 x y).trans (by decide)

theorem encode_op9XY0_and_F00F (x y : RegIdx) : encode (.op9XY0 x y) &&& 0xF00F = 0x9000 :=
  (asmXYN_and_F00F 0x9 0 x y).trans (by decide)

/-! ## Operands -/

/-- Zero extension keeps the address's value (30_encoding.md R59). -/
@[simp] theorem toNat_zextAddr (nnn : Addr12) : (zextAddr nnn).toNat = nnn.toNat :=
  BitVec.toNat_setWidth_of_le (by decide)

theorem beq_iff_toNat_eq (a b : Byte) : (a == b) = true ↔ a.toNat = b.toNat := by
  rw [beq_iff_eq, BitVec.toNat_inj]

theorem bne_iff_toNat_ne (a b : Byte) : (a != b) = true ↔ a.toNat ≠ b.toNat := by
  rw [bne_iff_ne, ne_eq, ne_eq, BitVec.toNat_inj]

/-! ## Meanings -/

theorem exec_op1NNN (nnn : Addr12) (s : State) : exec (.op1NNN nnn) s = .next (s.setPc (zextAddr nnn)) := rfl

theorem exec_op3XNN (x : RegIdx) (nn : Byte) (s : State) : exec (.op3XNN x nn) s = skipIf (s.readV x == nn) s := rfl

theorem exec_op4XNN (x : RegIdx) (nn : Byte) (s : State) : exec (.op4XNN x nn) s = skipIf (s.readV x != nn) s := rfl

theorem exec_op5XY0 (x y : RegIdx) (s : State) : exec (.op5XY0 x y) s = skipIf (s.readV x == s.readV y) s := rfl

theorem exec_op9XY0 (x y : RegIdx) (s : State) : exec (.op9XY0 x y) s = skipIf (s.readV x != s.readV y) s := rfl

/-- What a skip does (30_encoding.md R71), for a condition `P` that its Boolean `c` decides: PC + 4 where `P` holds and PC + 2
where it fails, and nothing else changes. -/
theorem skipIf_next {c : Bool} {P : Prop} [Decidable P] (h : c = true ↔ P) (s : State) :
    ∃ t, skipIf c s = .next t ∧ t.pc = (if P then s.pc + 4 else s.pc + 2) ∧ SameExcept [.pc] s t := by
  refine ⟨_, rfl, ?_, sameExcept_setPc s _⟩
  simp only [State.setPc_pc, h]

/-! ## The obligations -/

/-- Settles O27: a jump writes PC alone, with the zero-extended address. -/
theorem jumpSetsPcToTheAddress : Obligations.JumpSetsPcToTheAddress := by
  intro nnn s
  exact ⟨encode_op1NNN_and_F000 nnn, s.setPc (zextAddr nnn), exec_op1NNN nnn s, toNat_zextAddr nnn, sameExcept_setPc s _⟩

/-- Settles O31: each of the four is the shared skip under its own comparison. -/
theorem registerSkipsCompareAndSkip : Obligations.RegisterSkipsCompareAndSkip := by
  intro x y nn s
  rw [exec_op3XNN, exec_op4XNN, exec_op5XY0, exec_op9XY0]
  exact ⟨⟨encode_op3XNN_and_F000 x nn, skipIf_next (beq_iff_toNat_eq _ _) s⟩,
    ⟨encode_op4XNN_and_F000 x nn, skipIf_next (bne_iff_toNat_ne _ _) s⟩,
    ⟨encode_op5XY0_and_F00F x y, skipIf_next (beq_iff_toNat_eq _ _) s⟩,
    ⟨encode_op9XY0_and_F00F x y, skipIf_next (bne_iff_toNat_ne _ _) s⟩⟩

end Sys2Proof.Machine

/-! # Loads, flag arithmetic and the random byte (41_alu.md) -/

namespace Sys2Proof.Machine

/-! ## The word of an instruction under its row's mask (30_encoding.md R61) -/

theorem encode_op6XNN_and_F000 (x : RegIdx) (nn : Byte) : encode (.op6XNN x nn) &&& 0xF000 = 0x6000 :=
  (asmXNN_and_F000 0x6 x nn).trans (by decide)

theorem encode_op7XNN_and_F000 (x : RegIdx) (nn : Byte) : encode (.op7XNN x nn) &&& 0xF000 = 0x7000 :=
  (asmXNN_and_F000 0x7 x nn).trans (by decide)

theorem encode_opCXNN_and_F000 (x : RegIdx) (nn : Byte) : encode (.opCXNN x nn) &&& 0xF000 = 0xC000 :=
  (asmXNN_and_F000 0xC x nn).trans (by decide)

theorem encode_op8XY0_and_F00F (x y : RegIdx) : encode (.op8XY0 x y) &&& 0xF00F = 0x8000 :=
  (asmXYN_and_F00F 0x8 0x0 x y).trans (by decide)

theorem encode_op8XY4_and_F00F (x y : RegIdx) : encode (.op8XY4 x y) &&& 0xF00F = 0x8004 :=
  (asmXYN_and_F00F 0x8 0x4 x y).trans (by decide)

theorem encode_op8XY5_and_F00F (x y : RegIdx) : encode (.op8XY5 x y) &&& 0xF00F = 0x8005 :=
  (asmXYN_and_F00F 0x8 0x5 x y).trans (by decide)

theorem encode_op8XY6_and_F00F (x y : RegIdx) : encode (.op8XY6 x y) &&& 0xF00F = 0x8006 :=
  (asmXYN_and_F00F 0x8 0x6 x y).trans (by decide)

theorem encode_op8XY7_and_F00F (x y : RegIdx) : encode (.op8XY7 x y) &&& 0xF00F = 0x8007 :=
  (asmXYN_and_F00F 0x8 0x7 x y).trans (by decide)

/-! ## The values of the results and flags (41_alu.md R84) -/

/-- Truncation to a byte is the remainder modulo 256 (00_scope.md R10). -/
@[simp] theorem toNat_trunc8 (n : Nat) : (trunc8 n).toNat = n % 256 := BitVec.toNat_ofNat n 8

theorem toNat_bool01 (P : Prop) [Decidable P] : (bool01 (decide P)).toNat = if P then 1 else 0 := by
  by_cases h : P <;> simp [bool01, h]

theorem toNat_addResult (a b : Byte) : (addResult a b).toNat = (a.toNat + b.toNat) % 256 := toNat_trunc8 _

theorem toNat_addCarry (a b : Byte) : (addCarry a b).toNat = if a.toNat + b.toNat > 255 then 1 else 0 := toNat_bool01 _

theorem toNat_subResult (a b : Byte) : (subResult a b).toNat = (a.toNat + 256 - b.toNat) % 256 := toNat_trunc8 _

theorem toNat_subNoBorrow (a b : Byte) : (subNoBorrow a b).toNat = if a.toNat ≥ b.toNat then 1 else 0 := toNat_bool01 _

theorem toNat_shrResult (b : Byte) : (shrResult b).toNat = b.toNat / 2 := by
  rw [shrResult, BitVec.toNat_ushiftRight, Nat.shiftRight_eq_div_pow, pow_one]

theorem toNat_shrFlag (b : Byte) : (shrFlag b).toNat = b.toNat % 2 :=
  (BitVec.toNat_and b 0x01).trans (Nat.and_one_is_mod _)

/-- The random byte is the low byte of the drawn word (R96). -/
theorem getLsbD_randomByte {k : Nat} (hk : k < 8) (s : State) :
    s.randomByte.getLsbD k = (Config.rngNext s.rng).2.getLsbD k := by
  simp [State.randomByte, hk]

/-! ## Meanings -/

theorem exec_op6XNN (x : RegIdx) (nn : Byte) (s : State) : exec (.op6XNN x nn) s = loadV x nn s := rfl

theorem exec_op7XNN (x : RegIdx) (nn : Byte) (s : State) :
    exec (.op7XNN x nn) s = loadV x (addResult (s.readV x) nn) s := rfl

theorem exec_op8XY0 (x y : RegIdx) (s : State) : exec (.op8XY0 x y) s = loadV x (s.readV y) s := rfl

theorem exec_op8XY4 (x y : RegIdx) (s : State) :
    exec (.op8XY4 x y) s = loadVFlag x (addResult (s.readV x) (s.readV y)) (addCarry (s.readV x) (s.readV y)) s := rfl

theorem exec_op8XY5 (x y : RegIdx) (s : State) :
    exec (.op8XY5 x y) s = loadVFlag x (subResult (s.readV x) (s.readV y)) (subNoBorrow (s.readV x) (s.readV y)) s := rfl

theorem exec_op8XY6 (x y : RegIdx) (s : State) :
    exec (.op8XY6 x y) s = loadVFlag x (shrResult (s.readV y)) (shrFlag (s.readV y)) s := rfl

theorem exec_op8XY7 (x y : RegIdx) (s : State) :
    exec (.op8XY7 x y) s = loadVFlag x (subResult (s.readV y) (s.readV x)) (subNoBorrow (s.readV y) (s.readV x)) s := rfl

theorem exec_opCXNN (x : RegIdx) (nn : Byte) (s : State) :
    exec (.opCXNN x nn) s = loadV x (s.randomByte &&& nn) s.advanceRng := rfl

theorem sameExcept_setV_advance (s : State) (x : RegIdx) (b : Byte) : SameExcept [.v, .pc] s (s.setV x b).advance :=
  ((sameExcept_setV s x b).mono (by decide)).trans ((sameExcept_advance _).mono (by decide))

/-- What a register load does: V[X] takes the byte, PC goes on by 2, and nothing else changes, VF included unless X = 15. -/
theorem loadV_next (x : RegIdx) (b : Byte) (s : State) :
    ∃ t, loadV x b s = .next t ∧ (∀ r, t.readV r = if r = x then b else s.readV r) ∧
      t.pc = s.pc + 2 ∧ SameExcept [.v, .pc] s t :=
  ⟨(s.setV x b).advance, rfl, fun r => State.readV_setV s x r b, rfl, sameExcept_setV_advance s x b⟩

/-- `loadV_next` with the written register and the others apart, for a property `P` of the byte loaded. -/
theorem loadV_next_of {P : Byte → Prop} {b : Byte} (hb : P b) (x : RegIdx) (s : State) :
    ∃ t, loadV x b s = .next t ∧ P (t.readV x) ∧ (∀ r, r ≠ x → t.readV r = s.readV r) ∧
      t.pc = s.pc + 2 ∧ SameExcept [.v, .pc] s t := by
  obtain ⟨t, ht, hv, hpc, hframe⟩ := loadV_next x b s
  refine ⟨t, ht, ?_, fun r hr => (hv r).trans (if_neg hr), hpc, hframe⟩
  rwa [hv x, if_pos rfl]

/-- What a load with a flag does, in the values `result` and `vf` of the two bytes: the flag is written last, so VF holds it
also where X = 15 (10_state.md R17); PC goes on by 2 and nothing else changes. -/
theorem loadVFlag_next {b flag : Byte} {result vf : Nat} (hb : b.toNat = result) (hflag : flag.toNat = vf)
    (x : RegIdx) (s : State) :
    ∃ t, loadVFlag x b flag s = .next t ∧
      (∀ r, (t.readV r).toNat = if r = 15 then vf else if r = x then result else (s.readV r).toNat) ∧
      t.pc = s.pc + 2 ∧ SameExcept [.v, .pc] s t := by
  refine ⟨((s.setV x b).setV flagReg flag).advance, rfl, fun r => ?_, rfl, ?_⟩
  · simp only [State.readV_advance, State.readV_setV, flagReg, apply_ite BitVec.toNat, hb, hflag]
  · exact ((sameExcept_setV s x b).mono (by decide)).trans (sameExcept_setV_advance _ _ _)

/-! ## The obligations -/

/-- Settles O33: each of the three is the shared register load, of its own byte. -/
theorem loadAddImmediateAndCopyWriteOnlyVX : Obligations.LoadAddImmediateAndCopyWriteOnlyVX := by
  intro x y nn s
  rw [exec_op6XNN, exec_op7XNN, exec_op8XY0]
  exact ⟨⟨encode_op6XNN_and_F000 x nn, loadV_next x nn s⟩,
    ⟨encode_op7XNN_and_F000 x nn,
      loadV_next_of (P := fun b => b.toNat = ((s.readV x).toNat + nn.toNat) % 256) (toNat_addResult _ _) x s⟩,
    ⟨encode_op8XY0_and_F00F x y, loadV_next x (s.readV y) s⟩⟩

/-- Settles O35: the shared load with a flag, of the sum and its carry. -/
theorem addWithCarryWritesTheFlagLast : Obligations.AddWithCarryWritesTheFlagLast := by
  intro x y s
  rw [exec_op8XY4]
  exact ⟨encode_op8XY4_and_F00F x y, loadVFlag_next (toNat_addResult _ _) (toNat_addCarry _ _) x s⟩

/-- Settles O36: the shared load with a flag, of each difference and its no-borrow. -/
theorem subtractionsWriteTheNoBorrowFlagLast : Obligations.SubtractionsWriteTheNoBorrowFlagLast := by
  intro x y s
  rw [exec_op8XY5, exec_op8XY7]
  exact ⟨⟨encode_op8XY5_and_F00F x y, loadVFlag_next (toNat_subResult _ _) (toNat_subNoBorrow _ _) x s⟩,
    ⟨encode_op8XY7_and_F00F x y, loadVFlag_next (toNat_subResult _ _) (toNat_subNoBorrow _ _) x s⟩⟩

/-- Settles O37: the shared load with a flag, of VY's half and its bit 0. -/
theorem shiftRightOfVYWritesTheLostBitLast : Obligations.ShiftRightOfVYWritesTheLostBitLast := by
  intro x y s
  rw [exec_op8XY6]
  exact ⟨encode_op8XY6_and_F00F x y, loadVFlag_next (toNat_shrResult _) (toNat_shrFlag _) x s⟩

/-- Settles O39: the shared register load, run from the state whose generator has advanced by the one draw; the load's frame keeps
that generator. -/
theorem randomByteIsMaskedAndDrawnOnce : Obligations.RandomByteIsMaskedAndDrawnOnce := by
  intro x nn s
  rw [exec_opCXNN]
  have hbits : ∀ k < 8, (s.randomByte &&& nn).getLsbD k = ((Config.rngNext s.rng).2.getLsbD k && nn.getLsbD k) :=
    fun k hk => by rw [BitVec.getLsbD_and, getLsbD_randomByte hk]
  obtain ⟨t, ht, hx, hother, hpc, hframe⟩ := loadV_next_of
    (P := fun b => ∀ k < 8, b.getLsbD k = ((Config.rngNext s.rng).2.getLsbD k && nn.getLsbD k)) hbits x s.advanceRng
  have hrng : t.rng = s.advanceRng.rng := hframe .rng (by decide)
  exact ⟨encode_opCXNN_and_F000 x nn, t, ht, hx, hother, hrng, hpc,
    ((sameExcept_advanceRng s).mono (by decide)).trans (hframe.mono (by decide))⟩

end Sys2Proof.Machine

/-! # The index register (42_index_memory.md) -/

namespace Sys2Proof.Machine

/-! ## The word of an instruction under its row's mask (30_encoding.md R61) -/

theorem encode_opANNN_and_F000 (nnn : Addr12) : encode (.opANNN nnn) &&& 0xF000 = 0xA000 :=
  (asmNNN_and_F000 0xA nnn).trans (by decide)

/-! ## Meanings -/

theorem exec_opANNN (nnn : Addr12) (s : State) : exec (.opANNN nnn) s = loadIndex (zextAddr nnn) s := rfl

theorem sameExcept_setIndex_advance (s : State) (w : Word) : SameExcept [.index, .pc] s (s.setIndex w).advance :=
  ((sameExcept_setIndex s w).mono (by decide)).trans ((sameExcept_advance _).mono (by decide))

/-- What an index load does, in the value `n` of its word: I takes it, PC goes on by 2 and nothing else changes. -/
theorem loadIndex_next {w : Word} {n : Nat} (hw : w.toNat = n) (s : State) :
    ∃ t, loadIndex w s = .next t ∧ t.index.toNat = n ∧ t.pc = s.pc + 2 ∧ SameExcept [.index, .pc] s t :=
  ⟨(s.setIndex w).advance, rfl, hw, rfl, sameExcept_setIndex_advance s w⟩

/-! ## The obligations -/

/-- Settles O40: the shared index load, of the zero-extended address. -/
theorem setIndexWritesTheAddress : Obligations.SetIndexWritesTheAddress := by
  intro nnn s
  rw [exec_opANNN]
  exact ⟨encode_opANNN_and_F000 nnn, loadIndex_next (toNat_zextAddr nnn) s⟩

end Sys2Proof.Machine

/-! # The display (43_display.md) -/

namespace Sys2Proof.Machine

/-! ## Meanings -/

theorem exec_op00E0 (s : State) : exec .op00E0 s = .next (s.setGrid Grid.clear).markRedraw.advance := rfl

/-- The frame of a display instruction's end: the grid written, redraw marked, PC advanced. -/
theorem sameExcept_setGrid_markRedraw_advance (s : State) (g : Grid) :
    SameExcept [.grid, .redraw, .pc] s (s.setGrid g).markRedraw.advance :=
  ((sameExcept_setGrid s g).mono (by decide)).trans
    (((sameExcept_markRedraw _).mono (by decide)).trans ((sameExcept_advance _).mono (by decide)))

/-! ## The obligations -/

/-- Settles O46: 00E0 stores the cleared grid, whose every cell reads off. -/
theorem clearTurnsEveryCellOff : Obligations.ClearTurnsEveryCellOff := by
  intro s
  have hword : encode .op00E0 = 0x00E0 := rfl
  exact ⟨hword, (s.setGrid Grid.clear).markRedraw.advance, exec_op00E0 s, Grid.cell_clear, rfl, rfl,
    sameExcept_setGrid_markRedraw_advance s Grid.clear⟩

end Sys2Proof.Machine

/-! # Keys and timers (44_keys_timers.md) -/

namespace Sys2Proof.Machine

/-! ## The word of an instruction under its row's mask (30_encoding.md R61) -/

/-- The mask 0xF0FF leaves a REG_SUB word's first nibble and its low byte. -/
theorem asmXNN_and_F0FF (n1 : Nibble) (x : RegIdx) (nn : Byte) : asmXNN n1 x nn &&& 0xF0FF#16 = asmXNN n1 0 nn := by
  rw [and_F0FF, fieldN1_asmXNN, fieldNN_asmXNN]

theorem encode_opFX07_and_F0FF (x : RegIdx) : encode (.opFX07 x) &&& 0xF0FF = 0xF007 :=
  (asmXNN_and_F0FF 0xF x 0x07).trans (by decide)

/-! ## Meanings -/

theorem exec_opFX07 (x : RegIdx) (s : State) : exec (.opFX07 x) s = loadV x s.dt s := rfl

/-! ## The tick at the end of a step (60_exceptions.md R132) -/

theorem toNat_dt_endOfStep (s : State) (op : Word) : (s.endOfStep op).dt.toNat = s.dt.toNat - 1 := by
  rw [State.endOfStep_dt, toNat_tickTimer]

/-! ## The obligations -/

/-- Settles O52: FX07 is the shared register load, of DT; the load's frame keeps DT, so the tick that follows takes one from the
value that was read. -/
theorem readTimerGivesTheValueBeforeTheTick : Obligations.ReadTimerGivesTheValueBeforeTheTick := by
  intro x s
  rw [exec_opFX07]
  obtain ⟨t, ht, hv, hpc, hframe⟩ := loadV_next x s.dt s
  have hdt : t.dt = s.dt := hframe .dt (by decide)
  exact ⟨encode_opFX07_and_F0FF x, t, ht, hv, hpc, hframe, fun op => hdt ▸ toNat_dt_endOfStep t op⟩

end Sys2Proof.Machine

/-! # Power-on and the host operations (70_reset_and_hazards.md) -/

namespace Sys2Proof.Machine

/-! ## The state after a host operation -/

theorem HostOp.after_of_run_ok {o : HostOp} {s t : State} (h : o.run s = .ok t) : o.after s = t := by
  rw [HostOp.after, h]

theorem HostOp.after_of_run_error {o : HostOp} {s : State} {e : LoadError} (h : o.run s = .error e) : o.after s = s := by
  rw [HostOp.after, h]

/-! ## When `load_program` succeeds (R141, R142) -/

theorem loadProgram_ok_of_le {bytes : List Byte} (h : bytes.length ≤ maxRom) (s : State) :
    ∃ t, loadProgram bytes s = .ok t :=
  ⟨_, if_neg (Nat.not_lt.mpr h)⟩

theorem loadProgram_error_of_lt {bytes : List Byte} (h : maxRom < bytes.length) (s : State) :
    loadProgram bytes s = .error .capacityExceeded :=
  if_pos h

/-! ## The obligations -/

/-- Settles O58: the length check alone decides between success and CapacityExceeded, and a host operation that answers an error
leaves the state from before the call. -/
theorem loadProgramFailsExactlyAboveItsCapacity : Obligations.LoadProgramFailsExactlyAboveItsCapacity := by
  intro bytes s
  constructor
  · intro hfits
    obtain ⟨t, ht⟩ := loadProgram_ok_of_le hfits s
    exact ⟨t, ht, HostOp.after_of_run_ok ht⟩
  · intro hlong
    have herr := loadProgram_error_of_lt hlong s
    exact ⟨herr, HostOp.after_of_run_error herr⟩

end Sys2Proof.Machine

/-! # The encoding (30_encoding.md): the decoder, the encoder and the opcode map -/

namespace Sys2Proof

/-! ## The word of a decoded instruction (30_encoding.md R58, R60) -/

/-- What the 8 family decodes to has the family's word. -/
theorem encode_of_decode8 {x y : RegIdx} {n : Nibble} {i : Instr} (h : decode8 x y n = .ok i) :
    encode i = asmXYN 0x8 x y n ∧ i.WellFormed := by
  unfold decode8 at h
  split at h <;> cases h <;> exact ⟨rfl, rfl⟩

/-- What the E family decodes to has the family's word. -/
theorem encode_of_decodeE {x : RegIdx} {nn : Byte} {i : Instr} (h : decodeE x nn = .ok i) :
    encode i = asmXNN 0xE x nn ∧ i.WellFormed := by
  unfold decodeE at h
  split at h <;> cases h <;> exact ⟨rfl, rfl⟩

/-- What the F family decodes to has the family's word. -/
theorem encode_of_decodeF {x : RegIdx} {nn : Byte} {i : Instr} (h : decodeF x nn = .ok i) :
    encode i = asmXNN 0xF x nn ∧ i.WellFormed := by
  unfold decodeF at h
  split at h <;> cases h <;> exact ⟨rfl, rfl⟩

theorem asmNNN_of_fieldN1 {op : Word} {n : Nibble} (h : fieldN1 op = n) : asmNNN n (fieldNNN op) = op := by
  rw [← h, asmNNN_fields]

theorem asmXNN_of_fieldN1 {op : Word} {n : Nibble} (h : fieldN1 op = n) :
    asmXNN n (fieldX op) (fieldNN op) = op := by
  rw [← h, asmXNN_fields]

theorem asmXYN_of_fieldN1 {op : Word} {n : Nibble} (h : fieldN1 op = n) :
    asmXYN n (fieldX op) (fieldY op) (fieldN op) = op := by
  rw [← h, asmXYN_fields]

/-- The word of a case of the 0 family: 0NNN is left only where neither 00E0 nor 00EE matches (R61 row 3). -/
theorem encode_of_decode_family0 {op : Word} {i : Instr} (hf : fieldN1 op = 0x0) (h : decode op = .ok i) :
    encode i = op ∧ i.WellFormed := by
  rw [decode_family0 hf, Except.ok.injEq] at h
  have hop := asmNNN_of_fieldN1 hf
  split at h
  · next h0 => subst h; exact ⟨h0.symm, rfl⟩
  split at h
  · next hE => subst h; exact ⟨hE.symm, rfl⟩
  next h0 hE =>
    subst h
    refine ⟨hop, ?_⟩
    have ne0 : fieldNNN op ≠ 0x0E0#12 := fun e => h0 (by rw [← hop, e]; rfl)
    have neE : fieldNNN op ≠ 0x0EE#12 := fun e => hE (by rw [← hop, e]; rfl)
    simp [Instr.WellFormed, Instr.wf, ne0, neE]

/-- A word that decodes is the word of its instruction (R60, R61). -/
theorem encode_of_decode {op : Word} {i : Instr} (h : decode op = .ok i) : encode i = op ∧ i.WellFormed := by
  rcases nibble_cases (fieldN1 op) with hf | hf | hf | hf | hf | hf | hf | hf | hf | hf | hf | hf | hf | hf | hf | hf
  · exact encode_of_decode_family0 hf h
  · rw [decode_family1 hf] at h; cases h; exact ⟨asmNNN_of_fieldN1 hf, rfl⟩
  · rw [decode_family2 hf] at h; cases h; exact ⟨asmNNN_of_fieldN1 hf, rfl⟩
  · rw [decode_family3 hf] at h; cases h; exact ⟨asmXNN_of_fieldN1 hf, rfl⟩
  · rw [decode_family4 hf] at h; cases h; exact ⟨asmXNN_of_fieldN1 hf, rfl⟩
  · rw [decode_family5 hf] at h
    split at h <;> cases h
    next hn => exact ⟨by rw [← asmXYN_of_fieldN1 hf, hn]; simp [encode], rfl⟩
  · rw [decode_family6 hf] at h; cases h; exact ⟨asmXNN_of_fieldN1 hf, rfl⟩
  · rw [decode_family7 hf] at h; cases h; exact ⟨asmXNN_of_fieldN1 hf, rfl⟩
  · rw [decode_family8 hf] at h; exact asmXYN_of_fieldN1 hf ▸ encode_of_decode8 h
  · rw [decode_family9 hf] at h
    split at h <;> cases h
    next hn => exact ⟨by rw [← asmXYN_of_fieldN1 hf, hn]; simp [encode], rfl⟩
  · rw [decode_familyA hf] at h; cases h; exact ⟨asmNNN_of_fieldN1 hf, rfl⟩
  · rw [decode_familyB hf] at h; cases h; exact ⟨asmNNN_of_fieldN1 hf, rfl⟩
  · rw [decode_familyC hf] at h; cases h; exact ⟨asmXNN_of_fieldN1 hf, rfl⟩
  · rw [decode_familyD hf] at h; cases h; exact ⟨asmXYN_of_fieldN1 hf, rfl⟩
  · rw [decode_familyE hf] at h; exact asmXNN_of_fieldN1 hf ▸ encode_of_decodeE h
  · rw [decode_familyF hf] at h; exact asmXNN_of_fieldN1 hf ▸ encode_of_decodeF h

/-! ## The instruction of an assembled word -/

/-- The 0NNN word of any address but the two of 00E0 and 00EE decodes as the 0NNN case. -/
theorem decode_encode_op0NNN {nnn : Addr12} (h : (Instr.op0NNN nnn).WellFormed) :
    decode (encode (.op0NNN nnn)) = .ok (.op0NNN nnn) := by
  simp only [Instr.WellFormed, Instr.wf, Bool.and_eq_true, bne_iff_ne] at h
  obtain ⟨ne0, neE⟩ := h
  have e0 : asmNNN 0x0#4 nnn ≠ 0x00E0#16 := fun e => ne0 (asmNNN_inj.1 (e.trans (by decide : _ = asmNNN 0x0#4 0x0E0#12))).2
  have eE : asmNNN 0x0#4 nnn ≠ 0x00EE#16 := fun e => neE (asmNNN_inj.1 (e.trans (by decide : _ = asmNNN 0x0#4 0x0EE#12))).2
  rw [encode, decode_family0 (fieldN1_asmNNN _ _), if_neg e0, if_neg eE, fieldNNN_asmNNN]

theorem decode_encode {i : Instr} (h : i.WellFormed) : decode (encode i) = .ok i := by
  cases i with
  | op0NNN nnn => exact decode_encode_op0NNN h
  | op00E0 | op00EE => decide
  | op1NNN => simp [encode, decode_family1]
  | op2NNN => simp [encode, decode_family2]
  | op3XNN => simp [encode, decode_family3]
  | op4XNN => simp [encode, decode_family4]
  | op5XY0 => simp [encode, decode_family5]
  | op9XY0 => simp [encode, decode_family9]
  | op6XNN => simp [encode, decode_family6]
  | op7XNN => simp [encode, decode_family7]
  | op8XY0 | op8XY1 | op8XY2 | op8XY3 | op8XY4 | op8XY5 | op8XY6 | op8XY7 | op8XYE =>
    simp [encode, decode_family8, decode8]
  | opANNN => simp [encode, decode_familyA]
  | opBNNN => simp [encode, decode_familyB]
  | opCXNN => simp [encode, decode_familyC]
  | opDXYN => simp [encode, decode_familyD]
  | opEX9E | opEXA1 => simp [encode, decode_familyE, decodeE]
  | opFX07 | opFX0A | opFX15 | opFX18 | opFX1E | opFX29 | opFX33 | opFX55 | opFX65 =>
    simp [encode, decode_familyF, decodeF]

/-- The bytes of an instruction are read back as its word, and the bytes after them are left. -/
theorem decodeBytes_encodeBytes {i : Instr} (h : i.WellFormed) (rest : List Byte) :
    decodeBytes (encodeBytes i ++ rest) = .ok (i, rest) := by
  simp only [encodeBytes, List.cons_append, List.nil_append, decodeBytes, opcodeOfBytes_halves, decode_encode h]
  rfl

/-! ## The obligations on decoder and encoder -/

/-- Settles O1: the word by the case of the instruction, the bytes by joining the two halves of the word. -/
theorem decodeOfEncodeGivesTheInstructionBack : Obligations.DecodeOfEncodeGivesTheInstructionBack :=
  fun _ hwf => ⟨decode_encode hwf, decodeBytes_encodeBytes hwf⟩

/-- Settles O2: by the sixteen families of the first nibble. -/
theorem encodeOfDecodeGivesTheWordBack : Obligations.EncodeOfDecodeGivesTheWordBack :=
  fun _ _ => encode_of_decode

/-- Settles O6: eight closed words. -/
theorem writtenOutWordsDecode : Obligations.WrittenOutWordsDecode := by
  unfold Obligations.WrittenOutWordsDecode
  decide

/-! ## The words no instruction has (30_encoding.md R64 to R67) -/

/-- The illegal words outside the 0 family. -/
def IllegalWord (op : Word) : Prop :=
  ((fieldN1 op = 0x5 ∨ fieldN1 op = 0x9) ∧ fieldN op ≠ 0x0) ∨
    (fieldN1 op = 0x8 ∧ fieldN op ∈ [0x8#4, 0x9, 0xA, 0xB, 0xC, 0xD, 0xF]) ∨
    (fieldN1 op = 0xE ∧ fieldNN op ∉ [0x9E#8, 0xA1]) ∨
    (fieldN1 op = 0xF ∧ fieldNN op ∉ [0x07#8, 0x0A, 0x15, 0x18, 0x1E, 0x29, 0x33, 0x55, 0x65])

theorem decode8_error_iff {x y : RegIdx} {n : Nibble} :
    (∃ e, decode8 x y n = .error e) ↔ n ∈ [0x8#4, 0x9, 0xA, 0xB, 0xC, 0xD, 0xF] := by
  rcases nibble_cases n with h | h | h | h | h | h | h | h | h | h | h | h | h | h | h | h <;> subst h <;> simp [decode8]

theorem decodeE_error_iff {x : RegIdx} {nn : Byte} :
    (∃ e, decodeE x nn = .error e) ↔ nn ∉ [0x9E#8, 0xA1] := by
  unfold decodeE
  split <;> simp_all

theorem decodeF_error_iff {x : RegIdx} {nn : Byte} :
    (∃ e, decodeF x nn = .error e) ↔ nn ∉ [0x07#8, 0x0A, 0x15, 0x18, 0x1E, 0x29, 0x33, 0x55, 0x65] := by
  unfold decodeF
  split <;> simp_all

/-- The decoder rejects exactly the illegal words. -/
theorem decode_error_iff {op : Word} : (∃ e, decode op = .error e) ↔ IllegalWord op := by
  unfold IllegalWord
  rcases nibble_cases (fieldN1 op) with hf | hf | hf | hf | hf | hf | hf | hf | hf | hf | hf | hf | hf | hf | hf | hf
  · simp [hf, decode_family0 hf]
  · simp [hf, decode_family1 hf]
  · simp [hf, decode_family2 hf]
  · simp [hf, decode_family3 hf]
  · simp [hf, decode_family4 hf]
  · rw [decode_family5 hf]; split <;> simp [*]
  · simp [hf, decode_family6 hf]
  · simp [hf, decode_family7 hf]
  · rw [decode_family8 hf, decode8_error_iff]; simp [hf]
  · rw [decode_family9 hf]; split <;> simp [*]
  · simp [hf, decode_familyA hf]
  · simp [hf, decode_familyB hf]
  · simp [hf, decode_familyC hf]
  · simp [hf, decode_familyD hf]
  · rw [decode_familyE hf, decodeE_error_iff]; simp [hf]
  · rw [decode_familyF hf, decodeF_error_iff]; simp [hf]

end Sys2Proof

/-! # The opcode map (30_encoding.md R61, R73) -/

namespace Sys2Proof

/-! ## Rows and words -/

theorem OpcodeRow.selects_iff {r : OpcodeRow} {op : Word} : r.selects op = true ↔ op &&& r.mask = r.matchBits := by
  rw [OpcodeRow.selects, beq_iff_eq]

/-- Two rows that select one word agree on the bits both of their masks keep. -/
theorem OpcodeRow.agree_of_selects {r r' : OpcodeRow} {op : Word} (h : r.selects op = true) (h' : r'.selects op = true) :
    r.matchBits &&& r'.mask = r'.matchBits &&& r.mask := by
  rw [← selects_iff.1 h, ← selects_iff.1 h', BitVec.and_assoc, BitVec.and_assoc, BitVec.and_comm r.mask]

/-- The rows that agree on the bits both masks keep: a row with itself, and row 3 with the two rows of a whole word. -/
theorem rows_agree : ∀ r ∈ opcodeMap, ∀ r' ∈ opcodeMap, r.matchBits &&& r'.mask = r'.matchBits &&& r.mask →
    r = r' ∨ (r.caseNo = 3 ∧ r'.mask = 0xFFFF) ∨ (r'.caseNo = 3 ∧ r.mask = 0xFFFF) := by
  decide

/-- The rows whose mask keeps the whole word are those of 00E0 and 00EE. -/
theorem rows_of_whole_words : ∀ r ∈ opcodeMap, r.mask = 0xFFFF →
    r.matchBits = 0x00E0 ∨ r.matchBits = 0x00EE := by
  decide

/-- A row whose mask keeps the whole word selects one word only. -/
theorem selects_whole_word {r : OpcodeRow} {op : Word} (hr : r ∈ opcodeMap) (hm : r.mask = 0xFFFF)
    (h : r.selects op = true) : op = 0x00E0 ∨ op = 0x00EE := by
  have hop : op = r.matchBits := by
    rw [← OpcodeRow.selects_iff.1 h, hm]
    exact (BitVec.and_allOnes (x := op)).symm
  rw [hop]
  exact rows_of_whole_words r hr hm

/-- One row selects a word, but for row 3 beside the rows of 00E0 and 00EE. -/
theorem eq_of_selects {r r' : OpcodeRow} {op : Word} (hr : r ∈ opcodeMap) (hr' : r' ∈ opcodeMap)
    (h : r.selects op = true) (h' : r'.selects op = true) (hE : op ≠ 0x00E0 ∧ op ≠ 0x00EE) : r = r' := by
  have whole (q : OpcodeRow) (hq : q ∈ opcodeMap) (hs : q.selects op = true) : q.mask ≠ 0xFFFF := fun hm =>
    (selects_whole_word hq hm hs).elim hE.1 hE.2
  rcases rows_agree r hr r' hr' (OpcodeRow.agree_of_selects h h') with heq | ⟨-, hm⟩ | ⟨-, hm⟩
  · exact heq
  · exact absurd hm (whole r' hr' h')
  · exact absurd hm (whole r hr h)

/-! ## Every instruction's row selects its word -/

theorem row_selects_encode (i : Instr) : ∃ r ∈ opcodeMap, r.caseNo = i.caseNo ∧ r.selects (encode i) = true := by
  cases i with
  | op00E0 => exact Laws.EncodeMatchesMapRow.op00E0
  | op00EE => exact Laws.EncodeMatchesMapRow.op00EE
  | op0NNN => exact Laws.EncodeMatchesMapRow.op0NNN _
  | op1NNN => exact Laws.EncodeMatchesMapRow.op1NNN _
  | op2NNN => exact Laws.EncodeMatchesMapRow.op2NNN _
  | op3XNN => exact Laws.EncodeMatchesMapRow.op3XNN _ _
  | op4XNN => exact Laws.EncodeMatchesMapRow.op4XNN _ _
  | op5XY0 => exact Laws.EncodeMatchesMapRow.op5XY0 _ _
  | op9XY0 => exact Laws.EncodeMatchesMapRow.op9XY0 _ _
  | op6XNN => exact Laws.EncodeMatchesMapRow.op6XNN _ _
  | op7XNN => exact Laws.EncodeMatchesMapRow.op7XNN _ _
  | op8XY0 => exact Laws.EncodeMatchesMapRow.op8XY0 _ _
  | op8XY1 => exact Laws.EncodeMatchesMapRow.op8XY1 _ _
  | op8XY2 => exact Laws.EncodeMatchesMapRow.op8XY2 _ _
  | op8XY3 => exact Laws.EncodeMatchesMapRow.op8XY3 _ _
  | op8XY4 => exact Laws.EncodeMatchesMapRow.op8XY4 _ _
  | op8XY5 => exact Laws.EncodeMatchesMapRow.op8XY5 _ _
  | op8XY6 => exact Laws.EncodeMatchesMapRow.op8XY6 _ _
  | op8XY7 => exact Laws.EncodeMatchesMapRow.op8XY7 _ _
  | op8XYE => exact Laws.EncodeMatchesMapRow.op8XYE _ _
  | opANNN => exact Laws.EncodeMatchesMapRow.opANNN _
  | opBNNN => exact Laws.EncodeMatchesMapRow.opBNNN _
  | opCXNN => exact Laws.EncodeMatchesMapRow.opCXNN _ _
  | opDXYN => exact Laws.EncodeMatchesMapRow.opDXYN _ _ _
  | opEX9E => exact Laws.EncodeMatchesMapRow.opEX9E _
  | opEXA1 => exact Laws.EncodeMatchesMapRow.opEXA1 _
  | opFX07 => exact Laws.EncodeMatchesMapRow.opFX07 _
  | opFX0A => exact Laws.EncodeMatchesMapRow.opFX0A _
  | opFX15 => exact Laws.EncodeMatchesMapRow.opFX15 _
  | opFX18 => exact Laws.EncodeMatchesMapRow.opFX18 _
  | opFX1E => exact Laws.EncodeMatchesMapRow.opFX1E _
  | opFX29 => exact Laws.EncodeMatchesMapRow.opFX29 _
  | opFX33 => exact Laws.EncodeMatchesMapRow.opFX33 _
  | opFX55 => exact Laws.EncodeMatchesMapRow.opFX55 _
  | opFX65 => exact Laws.EncodeMatchesMapRow.opFX65 _

/-! ## No row selects an illegal word -/

theorem fieldN1_and (a b : Word) : fieldN1 (a &&& b) = fieldN1 a &&& fieldN1 b := BitVec.extractLsb'_and

theorem fieldN_and (a b : Word) : fieldN (a &&& b) = fieldN a &&& fieldN b := BitVec.extractLsb'_and

theorem fieldNN_and (a b : Word) : fieldNN (a &&& b) = fieldNN a &&& fieldNN b := BitVec.extractLsb'_and

/-- What the masks of the map keep: the first nibble in every row, the last nibble in families 5, 8 and 9, and the low byte in
families E and F; and the rows of those families match legal words. -/
theorem rows_keep : ∀ r ∈ opcodeMap, fieldN1 r.mask = 0xF ∧
    ((fieldN1 r.matchBits = 0x5 ∨ fieldN1 r.matchBits = 0x9) → fieldN r.mask = 0xF ∧ fieldN r.matchBits = 0x0) ∧
    (fieldN1 r.matchBits = 0x8 → fieldN r.mask = 0xF ∧ fieldN r.matchBits ∉ [0x8#4, 0x9, 0xA, 0xB, 0xC, 0xD, 0xF]) ∧
    (fieldN1 r.matchBits = 0xE → fieldNN r.mask = 0xFF ∧ fieldNN r.matchBits ∈ [0x9E#8, 0xA1]) ∧
    (fieldN1 r.matchBits = 0xF → fieldNN r.mask = 0xFF ∧
      fieldNN r.matchBits ∈ [0x07#8, 0x0A, 0x15, 0x18, 0x1E, 0x29, 0x33, 0x55, 0x65]) := by
  decide

/-- A field of a selected word whose bits the row's mask keeps is that field of the row's match. -/
theorem fieldN1_of_selects {r : OpcodeRow} {op : Word} (h : r.selects op = true) (hm : fieldN1 r.mask = 0xF) :
    fieldN1 op = fieldN1 r.matchBits := by
  rw [← OpcodeRow.selects_iff.1 h, fieldN1_and, hm]
  exact (BitVec.and_allOnes (x := fieldN1 op)).symm

theorem fieldN_of_selects {r : OpcodeRow} {op : Word} (h : r.selects op = true) (hm : fieldN r.mask = 0xF) :
    fieldN op = fieldN r.matchBits := by
  rw [← OpcodeRow.selects_iff.1 h, fieldN_and, hm]
  exact (BitVec.and_allOnes (x := fieldN op)).symm

theorem fieldNN_of_selects {r : OpcodeRow} {op : Word} (h : r.selects op = true) (hm : fieldNN r.mask = 0xFF) :
    fieldNN op = fieldNN r.matchBits := by
  rw [← OpcodeRow.selects_iff.1 h, fieldNN_and, hm]
  exact (BitVec.and_allOnes (x := fieldNN op)).symm

theorem not_illegalWord_of_selects {r : OpcodeRow} {op : Word} (hr : r ∈ opcodeMap) (h : r.selects op = true) :
    ¬ IllegalWord op := by
  obtain ⟨hN1, h59, h8, hE, hF⟩ := rows_keep r hr
  rw [← fieldN1_of_selects h hN1] at h59 h8 hE hF
  rintro (⟨hf, hn⟩ | ⟨hf, hn⟩ | ⟨hf, hn⟩ | ⟨hf, hn⟩)
  · obtain ⟨hm, hk⟩ := h59 hf
    exact hn (fieldN_of_selects h hm ▸ hk)
  · obtain ⟨hm, hk⟩ := h8 hf
    exact hk (fieldN_of_selects h hm ▸ hn)
  · obtain ⟨hm, hk⟩ := hE hf
    exact hn (fieldNN_of_selects h hm ▸ hk)
  · obtain ⟨hm, hk⟩ := hF hf
    exact hn (fieldNN_of_selects h hm ▸ hk)

/-! ## The case of a word -/

/-- An illegal word falls under no case. -/
theorem mapCase_of_illegalWord {op : Word} (h : IllegalWord op) : mapCase op = none :=
  List.find?_eq_none.2 fun _ hr hs => not_illegalWord_of_selects hr hs h

theorem mapCase_eq_some {op : Word} {r : OpcodeRow} (h : mapCase op = some r) : r ∈ opcodeMap ∧ r.selects op = true := by
  rw [mapCase] at h
  exact ⟨List.mem_of_find?_eq_some h, List.find?_some (p := fun q : OpcodeRow => q.selects op) h⟩

/-- A word that decodes falls under its instruction's case. -/
theorem mapCase_of_decode {op : Word} {i : Instr} (h : decode op = .ok i) :
    (mapCase op).map OpcodeRow.caseNo = some i.caseNo := by
  by_cases hE : op ≠ 0x00E0 ∧ op ≠ 0x00EE
  · obtain ⟨r, hr, hno, hs⟩ := row_selects_encode i
    rw [(encode_of_decode h).1] at hs
    have hsome : (mapCase op).isSome := List.find?_isSome.2 ⟨r, hr, hs⟩
    obtain ⟨r', hr'⟩ := Option.isSome_iff_exists.1 hsome
    obtain ⟨hmem, hs'⟩ := mapCase_eq_some hr'
    rw [hr', Option.map_some, eq_of_selects hmem hr hs' hs hE, hno]
  · have hop : op = 0x00E0 ∨ op = 0x00EE := by tauto
    rcases hop with rfl | rfl
    · cases h; decide
    · cases h; decide

/-- Settles O3: an illegal word is selected by no row; a word that decodes is selected by its instruction's row, and, as two rows'
masks and matches tell, by no other but row 3. -/
theorem decodeSelectsExactlyTheMapCase : Obligations.DecodeSelectsExactlyTheMapCase := by
  intro op
  constructor
  · cases hd : decode op with
    | error e => rw [mapCase_of_illegalWord (decode_error_iff.1 ⟨e, hd⟩)]; rfl
    | ok i => exact mapCase_of_decode hd
  · intro r hr r' hr' hs hs' hno hno'
    rcases rows_agree r hr r' hr' (OpcodeRow.agree_of_selects hs hs') with heq | ⟨h3, -⟩ | ⟨h3, -⟩
    · exact heq
    · exact absurd h3 hno
    · exact absurd h3 hno'

end Sys2Proof

/-! # What an execute phase and a step can do, said once (30_encoding.md R70 to R72, 60_exceptions.md R118 to R126) -/

namespace Sys2Proof.Machine

/-! ## Faults and their causes -/

/-- The number of bytes from I that an instruction accesses, and checks first (20_memory.md R43, R48). -/
def accessLen : Instr → Nat
  | .opDXYN _ _ n => n.toNat
  | .opFX33 _ => 3
  | .opFX55 x => blockLen x
  | .opFX65 x => blockLen x
  | _ => 0

/-- The faults the execute phase of an instruction raises, each with its cause (60_exceptions.md R119 to R123). -/
inductive FaultCause (s : State) : Instr → Fault → Prop where
  | underflow (h : s.sp = 0) : FaultCause s .op00EE (.stackUnderflow s.pc (encode .op00EE))
  | overflow {nnn : Addr12} (h : s.sp = 16) : FaultCause s (.op2NNN nnn) (.stackOverflow s.pc (encode (.op2NNN nnn)))
  | noInstruction {nnn : Addr12} : FaultCause s (.op0NNN nnn) (.unknownInstruction s.pc (encode (.op0NNN nnn)))
  | address {i : Instr} (h0 : 0 < accessLen i) (h : memSize < s.index.toNat + accessLen i) :
      FaultCause s i (.addressOutOfRange s.pc (some (encode i)) (max s.index.toNat memSize))
  | key {i : Instr} {x : RegIdx} (hi : i = .opEX9E x ∨ i = .opEXA1 x) (h : 15 < (s.readV x).toNat) :
      FaultCause s i (.keyIndexOutOfRange s.pc (encode i) (s.readV x))

/-- The record of a fault names the step's PC and the instruction's word (R125). -/
theorem FaultCause.record {s : State} {i : Instr} {f : Fault} (h : FaultCause s i f) :
    f.pc = s.pc ∧ f.opcode = some (encode i) := by
  cases h <;> exact ⟨rfl, rfl⟩

/-! ## The answers of an execute phase -/

/-- What `i`, run from `s`, may answer: a next state that meets `P`, or the entry of a fault for its cause. -/
def Answers (i : Instr) (s : State) (P : State → Prop) (r : Result) : Prop :=
  (∃ t, r = .next t ∧ P t) ∨ ∃ f, FaultCause s i f ∧ r = raise f s

variable {s t : State} {i : Instr} {P : State → Prop}

theorem answers_next (h : P t) : Answers i s P (.next t) := .inl ⟨t, rfl, h⟩

theorem answers_raise {f : Fault} (h : FaultCause s i f) : Answers i s P (raise f s) := .inr ⟨f, h, rfl⟩

/-- A next state an execute phase answered meets `P` or is a fault entry. -/
theorem Answers.of_next (h : Answers i s P (.next t)) : P t ∨ ∃ f, FaultCause s i f ∧ t = s.enterFault f := by
  rcases h with ⟨u, hu, hP⟩ | ⟨f, hf, ht⟩
  · cases hu; exact .inl hP
  · rw [raise_eq] at ht; cases ht; exact .inr ⟨f, hf, rfl⟩

/-- What a fault entry meets too, every next state of an execute phase meets. -/
theorem Answers.of_exec (h : Answers i s P (exec i s)) (hf : ∀ f, P (s.enterFault f)) (he : exec i s = .next t) : P t := by
  rw [he] at h
  rcases h.of_next with hP | ⟨f, -, rfl⟩
  · exact hP
  · exact hf f

theorem Answers.mono {Q : State → Prop} {r : Result} (h : Answers i s P r) (hPQ : ∀ u, P u → Q u) : Answers i s Q r :=
  h.imp_left fun ⟨u, hu, hP⟩ => ⟨u, hu, hPQ u hP⟩

/-! ### The shared operations that may raise a fault -/

theorem answers_requireAddrs {n : Nat} (hn : accessLen i = n) (h : n = 0 ∨ s.index.toNat + n ≤ memSize → P t) :
    Answers i s P (requireAddrs s.index.toNat n i s (.next t)) := by
  subst hn
  rcases requireAddrs_cases s.index.toNat (accessLen i) i s (.next t) with ⟨hok, e⟩ | ⟨h0, hbad, e⟩
  · rw [e]; exact answers_next (h hok)
  · rw [e]; exact answers_raise (.address h0 hbad)

theorem keyOf_eq_none {b : Byte} : keyOf b = none ↔ 15 < b.toNat := by
  rw [keyOf_eq]
  split <;> simp <;> omega

theorem keyOf_eq_some {b : Byte} {k : KeyIdx} : keyOf b = some k ↔ b.toNat = k.toNat := by
  rw [keyOf_eq]
  split
  · next h =>
    rw [Option.some.injEq, ← BitVec.toNat_inj, BitVec.toNat_setWidth]
    omega
  · next h =>
    have := k.isLt
    simp
    omega

theorem answers_skipOnKey {x : RegIdx} {want : Bool} (hi : i = .opEX9E x ∨ i = .opEXA1 x)
    (h : ∀ c : Bool, P (s.setPc (if c then s.pc + 4 else s.pc + 2))) : Answers i s P (skipOnKey i x want s) := by
  rw [skipOnKey]
  cases hk : keyOf (s.readV x) with
  | none => exact answers_raise (.key hi (keyOf_eq_none.1 hk))
  | some k => exact answers_next (h _)

theorem answers_exec00EE (h : ∀ w u, s.pop = some (w, u) → P (u.setPc (w + 2))) : Answers .op00EE s P (exec00EE s) := by
  rw [exec00EE]
  cases hp : s.pop with
  | none => exact answers_raise (.underflow (pop_none.1 hp))
  | some p => exact answers_next (h p.1 p.2 hp)

theorem answers_exec2NNN {nnn : Addr12} (h : ∀ u, s.push s.pc = some u → P (u.setPc (zextAddr nnn))) :
    Answers (.op2NNN nnn) s P (exec2NNN nnn s) := by
  rw [exec2NNN]
  cases hp : s.push s.pc with
  | none => exact answers_raise (.overflow (push_none.1 hp))
  | some u => exact answers_next (h u hp)

theorem answers_execFX0A {x : RegIdx} (hw : s.latch = none → P s)
    (hk : ∀ k, s.latch = some k → P (s.setV x (zextKey k)).advance) : Answers (.opFX0A x) s P (execFX0A x s) := by
  rw [execFX0A]
  cases hl : s.latch with
  | none => exact answers_next (hw hl)
  | some k => exact answers_next (hk k hl)

/-! ### The frame of every instruction -/

/-- What two steps write one after the other. -/
theorem SameExcept.append {cs ds : List Component} {u : State} (h : SameExcept cs s t) (h' : SameExcept ds t u) :
    SameExcept (cs ++ ds) s u :=
  (h.mono fun _ => List.mem_append_left ds).trans (h'.mono fun _ => List.mem_append_right cs)

/-- An element known to be the same leaves the list. -/
theorem SameExcept.of_cons {c : Component} {cs : List Component} (h : SameExcept (c :: cs) s t) (hc : c.same s t) :
    SameExcept cs s t := by
  intro d hd
  by_cases e : d = c
  · exact e ▸ hc
  · exact h d (List.not_mem_cons_of_ne_of_not_mem e hd)

theorem sameExcept_push {w : Word} (h : s.push w = some t) : SameExcept [.stack, .sp] s t := by
  obtain ⟨hs, rfl⟩ := push_some h
  apply sameExcept_of <;> intro h <;> first | exact absurd (by decide) h | (intros; rfl)

theorem sameExcept_pop {w : Word} (h : s.pop = some (w, t)) : SameExcept [.sp] s t := by
  obtain ⟨hs, -, -, rfl⟩ := pop_some h
  apply sameExcept_of <;> intro h <;> first | exact absurd (by decide) h | (intros; rfl)

theorem sameExcept_setV_setV_advance (s : State) (x y : RegIdx) (b c : Byte) :
    SameExcept [.v, .pc] s ((s.setV x b).setV y c).advance :=
  ((sameExcept_setV s x b).mono (by decide)).trans (sameExcept_setV_advance _ _ _)

theorem sameExcept_advanceRng_setV_advance (s : State) (x : RegIdx) (b : Byte) :
    SameExcept [.v, .rng, .pc] s (s.advanceRng.setV x b).advance :=
  ((sameExcept_advanceRng s).append (sameExcept_setV_advance _ x b)).mono (by decide)

theorem sameExcept_stepIndex_advance (s : State) (x : RegIdx) : SameExcept [.index, .pc] s (s.stepIndex x).advance :=
  (sameExcept_stepIndex s x).append (sameExcept_advance _)

theorem sameExcept_drawn (s : State) (g : Grid) (b : Byte) :
    SameExcept [.grid, .v, .redraw, .pc] s ((s.setGrid g).setV flagReg b).markRedraw.advance :=
  (sameExcept_setGrid s g).append ((sameExcept_setV _ _ b).append ((sameExcept_markRedraw _).append (sameExcept_advance _)))

/-- Every instruction completes with no change beside the elements its rule writes, or enters a fault for its cause. -/
theorem exec_answers (i : Instr) (s : State) : Answers i s (SameExcept (mayWrite i) s) (exec i s) := by
  cases i with
  | op00E0 => exact answers_next (sameExcept_setGrid_markRedraw_advance s _)
  | op00EE => exact answers_exec00EE fun _ u hp => (sameExcept_pop hp).append (sameExcept_setPc u _)
  | op0NNN => exact answers_raise .noInstruction
  | op2NNN => exact answers_exec2NNN fun u hp => (sameExcept_push hp).append (sameExcept_setPc u _)
  | op1NNN | op3XNN | op4XNN | op5XY0 | op9XY0 | opBNNN => exact answers_next (sameExcept_setPc s _)
  | op6XNN | op7XNN | op8XY0 | op8XY1 | op8XY2 | op8XY3 | opFX07 => exact answers_next (sameExcept_setV_advance s _ _)
  | op8XY4 | op8XY5 | op8XY6 | op8XY7 | op8XYE => exact answers_next (sameExcept_setV_setV_advance s _ _ _ _)
  | opANNN | opFX1E | opFX29 => exact answers_next (sameExcept_setIndex_advance s _)
  | opCXNN => exact answers_next (sameExcept_advanceRng_setV_advance s _ _)
  | opDXYN => exact answers_requireAddrs rfl fun _ => sameExcept_drawn s _ _
  | opEX9E => exact answers_skipOnKey (.inl rfl) fun _ => sameExcept_setPc s _
  | opEXA1 => exact answers_skipOnKey (.inr rfl) fun _ => sameExcept_setPc s _
  | opFX0A => exact answers_execFX0A (fun _ => sameExcept_refl _ s) fun _ _ => sameExcept_setV_advance s _ _
  | opFX15 => exact answers_next ((sameExcept_setDt s _).append (sameExcept_advance _))
  | opFX18 => exact answers_next ((sameExcept_setSt s _).append (sameExcept_advance _))
  | opFX33 => exact answers_requireAddrs rfl fun _ => (sameExcept_setMem s _).append (sameExcept_advance _)
  | opFX55 => exact answers_requireAddrs rfl fun _ => (sameExcept_setMem s _).append (sameExcept_stepIndex_advance _ _)
  | opFX65 => exact answers_requireAddrs rfl fun _ => (sameExcept_loadBlock s _).append (sameExcept_stepIndex_advance _ _)

theorem status_notMem_mayWrite (i : Instr) : Component.status ∉ mayWrite i := by
  cases i <;> simp [mayWrite]

/-- Where an execute phase leads: within the frame of its instruction, or into a fault for its cause. -/
theorem exec_next_cases (h : exec i s = .next t) :
    SameExcept (mayWrite i) s t ∨ ∃ f, FaultCause s i f ∧ t = s.enterFault f := by
  have ha := exec_answers i s
  rw [h] at ha
  exact ha.of_next

/-- An execute phase that left the core running stayed within the frame of its instruction. -/
theorem sameExcept_of_exec (h : exec i s = .next t) (ht : t.status = .running) : SameExcept (mayWrite i) s t := by
  rcases exec_next_cases h with hframe | ⟨f, -, rfl⟩
  · exact hframe
  · exact absurd ht (by simp)

/-- Settles O21: the frame of every instruction that raised no fault. -/
theorem instructionsWriteOnlyWhatTheirRulesName : Obligations.InstructionsWriteOnlyWhatTheirRulesName :=
  fun _ _ _ _ hexec ht => sameExcept_of_exec hexec ht

/-! ## The answers of a step -/

/-- The faults a step raises, by the phase that raises them (60_exceptions.md R129). -/
inductive StepFault (s : State) : Fault → Prop where
  | fetch (h : 0xFFE < s.pc.toNat) : StepFault s (.addressOutOfRange s.pc none (max s.pc.toNat memSize))
  | decode {e : DecodeReject} (h : s.pc.toNat ≤ 0xFFE) (he : decode s.nextOpcode = .error e) :
      StepFault s (.unknownInstruction s.pc s.nextOpcode)
  | execute {i : Instr} {f : Fault} (h : RunsNext s i) (hf : FaultCause s i f) : StepFault s f

/-- The word a core fetches is the word of the instruction it runs. -/
theorem RunsNext.encode_eq (h : RunsNext s i) : encode i = s.nextOpcode := (encode_of_decode h.2.2).1

/-- A step that led somewhere was made by a running core. -/
theorem running_of_step (h : step s = .next t) : s.status = .running := by
  cases hs : s.status with
  | running => rfl
  | faulted f => rw [step_faulted hs] at h; cases h

/-- The causes of a fault do not rest on the outputs, which a step clears first. -/
theorem FaultCause.of_clearOutputs {f : Fault} (h : FaultCause s.clearOutputs i f) : FaultCause s i f := by
  cases h with
  | underflow h => exact .underflow h
  | overflow h => exact .overflow h
  | noInstruction => exact .noInstruction
  | address h0 h => exact .address h0 h
  | key hi h => exact .key hi h

/-- What a step of a running core does: it enters a fault from the state before it, or executes its instruction to `u`, within that
instruction's frame, and ends the step. -/
theorem step_answers (h : s.status = .running) :
    (∃ f, StepFault s f ∧ step s = .next (s.enterFault f)) ∨
      ∃ i u, RunsNext s i ∧ exec i s.clearOutputs = .next u ∧ SameExcept (mayWrite i) s.clearOutputs u ∧
        u.status = .running ∧ step s = .next (u.endOfStep s.nextOpcode) := by
  rcases step_cases h with ⟨hp, e⟩ | ⟨hp, ⟨r, hr⟩, e⟩ | ⟨i, hi, e⟩
  · exact .inl ⟨_, .fetch hp, e⟩
  · exact .inl ⟨_, .decode hp hr, e⟩
  · rcases exec_answers i s.clearOutputs with ⟨u, hu, hframe⟩ | ⟨f, hf, hu⟩
    · have hrun : u.status = .running := (hframe .status (status_notMem_mayWrite i)).trans h
      refine .inr ⟨i, u, hi, hu, hframe, hrun, ?_⟩
      rw [e, hu, finish_next, if_pos hrun]
    · refine .inl ⟨f, .execute hi hf.of_clearOutputs, ?_⟩
      rw [e, hu, raise_eq, finish_next, if_neg (by simp)]
      rfl

/-- `step_answers` for a step known to have led to `t`. -/
theorem step_next_cases (h : step s = .next t) :
    (∃ f, StepFault s f ∧ t = s.enterFault f) ∨
      ∃ i u, RunsNext s i ∧ exec i s.clearOutputs = .next u ∧ SameExcept (mayWrite i) s.clearOutputs u ∧
        t = u.endOfStep s.nextOpcode := by
  rcases step_answers (running_of_step h) with ⟨f, hf, e⟩ | ⟨i, u, hi, hu, hframe, -, e⟩
  · exact .inl ⟨f, hf, by rw [h] at e; exact Host.Outcome.next.inj e⟩
  · exact .inr ⟨i, u, hi, hu, hframe, by rw [h] at e; exact Host.Outcome.next.inj e⟩

/-- A step that left the core running completed its instruction. -/
theorem step_completed (h : step s = .next t) (ht : t.status = .running) :
    ∃ i u, RunsNext s i ∧ exec i s.clearOutputs = .next u ∧ SameExcept (mayWrite i) s.clearOutputs u ∧
      t = u.endOfStep s.nextOpcode := by
  rcases step_next_cases h with ⟨f, -, rfl⟩ | hc
  · exact absurd ht (by simp)
  · exact hc

/-- A step that left the core faulted entered that fault from the state before it. -/
theorem step_raised {f : Fault} (h : step s = .next t) (ht : t.status = .faulted f) :
    StepFault s f ∧ t = s.enterFault f := by
  rcases step_answers (running_of_step h) with ⟨g, hg, e⟩ | ⟨i, u, -, -, -, hrun, e⟩
  · rw [h] at e
    cases e
    rw [State.enterFault_status] at ht
    cases ht
    exact ⟨hg, rfl⟩
  · rw [h] at e
    cases e
    rw [State.endOfStep_status, hrun] at ht
    cases ht

/-! ## The obligations on the cycle -/

/-- Settles O10: a fault entry and an ended step are both next states. -/
theorem runningCoreAlwaysStepsToANextState : Obligations.RunningCoreAlwaysStepsToANextState := by
  intro s hs
  rcases step_answers hs with ⟨f, -, e⟩ | ⟨i, u, -, -, -, -, e⟩
  · exact ⟨_, e⟩
  · exact ⟨_, e⟩

/-- Settles O7: the cycle of a core whose fetch and decode succeed. -/
theorem stepExecutesTheDecodedInstruction : Obligations.StepExecutesTheDecodedInstruction := by
  intro s t i hs hp hd he
  have hexec : exec i s.clearOutputs = .next t := he
  rw [step_runsNext ⟨hs, hp, hd⟩, hexec, finish_next]
  split <;> rfl

/-- The record of a step's fault (R125): its PC, and the word fetched where the fetch was legal. -/
theorem StepFault.record {f : Fault} (h : StepFault s f) :
    f.pc = s.pc ∧ (f.opcode = some s.nextOpcode ∨ (f.opcode = none ∧ 0xFFE < s.pc.toNat)) := by
  cases h with
  | fetch h => exact ⟨rfl, .inr ⟨rfl, h⟩⟩
  | decode h he => exact ⟨rfl, .inl rfl⟩
  | execute h hf =>
    obtain ⟨hpc, hop⟩ := hf.record
    exact ⟨hpc, .inl (hop.trans (congrArg some h.encode_eq))⟩

/-- Settles O12: a fault is entered from the state before the step. -/
theorem faultingStepChangesOnlyTheStatus : Obligations.FaultingStepChangesOnlyTheStatus := by
  intro s t f _ hstep ht
  obtain ⟨hf, rfl⟩ := step_raised hstep ht
  exact ⟨rfl, hf.record⟩

end Sys2Proof.Machine

/-! # Control flow (40_control_flow.md): calls and returns, the fault words, the jump with offset -/

namespace Sys2Proof.Machine

variable {s t : State} {nnn : Addr12}

/-! ## Operands -/

/-- Truncation to a word is the remainder modulo 65536 (00_scope.md R10). -/
@[simp] theorem toNat_trunc16 (n : Nat) : (trunc16 n).toNat = n % 65536 := BitVec.toNat_ofNat n 16

/-- The word of the 0NNN case is its address. -/
theorem encode_op0NNN (nnn : Addr12) : encode (.op0NNN nnn) = zextAddr nnn := by
  apply BitVec.eq_of_toNat_eq
  rw [encode, toNat_asmNNN, toNat_zextAddr]
  simp

/-! ## Push and pop where they succeed (10_state.md R23) -/

/-- The state after a push onto a stack with room. -/
def State.pushed (s : State) (w : Word) (h : s.sp.val < 16) : State :=
  { s with stack := s.stack.set s.sp.val w h, sp := ⟨s.sp.val + 1, by omega⟩ }

theorem push_of_lt (w : Word) (h : s.sp.val < 16) : s.push w = some (s.pushed w h) := dif_pos h

@[simp] theorem State.pushed_sp (w : Word) (h : s.sp.val < 16) : (s.pushed w h).sp.val = s.sp.val + 1 := rfl

theorem State.getElem_stack_pushed (w : Word) (h : s.sp.val < 16) (k : Fin 16) :
    (s.pushed w h).stack[k] = if k.val = s.sp.val then w else s.stack[k] := by
  simp only [State.pushed, Fin.getElem_fin, Vector.getElem_set, eq_comm]

theorem pop_of_ne (h : s.sp.val ≠ 0) :
    s.pop = some (s.stack[s.sp.val - 1]'(by omega), { s with sp := ⟨s.sp.val - 1, by omega⟩ }) := dif_neg h

/-! ## Meanings -/

theorem exec_op0NNN (nnn : Addr12) (s : State) :
    exec (.op0NNN nnn) s = raise (.unknownInstruction s.pc (encode (.op0NNN nnn))) s := rfl

theorem exec_opBNNN (nnn : Addr12) (s : State) :
    exec (.opBNNN nnn) s = .next (s.setPc (trunc16 (nnn.toNat + (s.readV 0).toNat))) := rfl

theorem exec_op00EE_of_pop {w : Word} (h : s.pop = some (w, t)) : exec .op00EE s = .next (t.setPc (w + 2)) := by
  have e : exec .op00EE s = exec00EE s := rfl
  rw [e, exec00EE, h]

theorem exec_op00EE_of_empty (h : s.sp = 0) : exec .op00EE s = raise (.stackUnderflow s.pc 0x00EE) s := by
  have e : exec .op00EE s = exec00EE s := rfl
  rw [e, exec00EE, pop_none.2 h]
  rfl

theorem exec_op2NNN_of_lt (nnn : Addr12) (h : s.sp.val < 16) :
    exec (.op2NNN nnn) s = .next ((s.pushed s.pc h).setPc (zextAddr nnn)) := by
  have e : exec (.op2NNN nnn) s = exec2NNN nnn s := rfl
  rw [e, exec2NNN, push_of_lt s.pc h]

theorem exec_op2NNN_of_full (nnn : Addr12) (h : s.sp = 16) :
    exec (.op2NNN nnn) s = raise (.stackOverflow s.pc (asmNNN 0x2 nnn)) s := by
  have e : exec (.op2NNN nnn) s = exec2NNN nnn s := rfl
  rw [e, exec2NNN, push_none.2 h]
  rfl

/-- The frame of a call. -/
theorem sameExcept_pushed_setPc (w v : Word) (h : s.sp.val < 16) :
    SameExcept [.pc, .sp, .stack] s ((s.pushed w h).setPc v) :=
  ((sameExcept_push (push_of_lt w h)).append (sameExcept_setPc _ v)).mono (by decide)

/-- The frame of a return. -/
theorem sameExcept_pop_setPc {w : Word} (h : s.pop = some (w, t)) (v : Word) : SameExcept [.pc, .sp] s (t.setPc v) :=
  ((sameExcept_pop h).append (sameExcept_setPc _ v)).mono (by decide)

/-! ## The obligations -/

/-- Settles O24: the pop where SP is not 0. -/
theorem returnGoesTwoPastTheTopStackEntry : Obligations.ReturnGoesTwoPastTheTopStackEntry := by
  intro s h
  have hp := pop_of_ne h
  exact ⟨_, exec_op00EE_of_pop hp, rfl, rfl, sameExcept_pop_setPc hp _⟩

/-- Settles O25: the pop where SP is 0. -/
theorem returnOnAnEmptyStackFaults : Obligations.ReturnOnAnEmptyStackFaults := fun _ => exec_op00EE_of_empty

/-- Settles O26: the record's word is the zero-extended address. -/
theorem machineCodeCallWordsFault : Obligations.MachineCodeCallWordsFault := by
  intro nnn s
  rw [exec_op0NNN, encode_op0NNN]
  rfl

/-- Settles O28: the push where SP is below 16. -/
theorem callPushesItsOwnAddressAndJumps : Obligations.CallPushesItsOwnAddressAndJumps := by
  intro nnn s h
  exact ⟨_, exec_op2NNN_of_lt nnn h, toNat_zextAddr nnn, rfl, State.getElem_stack_pushed s.pc h,
    sameExcept_pushed_setPc s.pc _ h⟩

/-- Settles O32: the sum of an address and a byte is below 2^16, so its truncation keeps it. -/
theorem jumpWithOffsetAddsV0Unreduced : Obligations.JumpWithOffsetAddsV0Unreduced := by
  intro nnn s
  refine ⟨_, exec_opBNNN nnn s, ?_, sameExcept_setPc s _⟩
  rw [State.setPc_pc, toNat_trunc16]
  omega

/-- As many calls as the stack has room for complete, and each counts one entry. -/
theorem execAll_calls (targets : List Addr12) (s : State) (h : s.sp.val + targets.length ≤ 16) :
    ∃ t, execAll (targets.map .op2NNN) s = .next t ∧ t.status = s.status ∧ t.sp.val = s.sp.val + targets.length := by
  induction targets generalizing s with
  | nil => exact ⟨s, rfl, rfl, rfl⟩
  | cons nnn targets ih =>
    rw [List.length_cons] at h
    have hroom : s.sp.val < 16 := by omega
    have hsp := State.pushed_sp s.pc hroom
    obtain ⟨t, ht, hstatus, hcount⟩ := ih ((s.pushed s.pc hroom).setPc (zextAddr nnn)) (by rw [State.setPc_sp]; omega)
    refine ⟨t, ?_, hstatus, ?_⟩
    · simp only [List.map_cons, execAll, exec_op2NNN_of_lt nnn hroom, ht]
    · rw [hcount, State.setPc_sp, hsp, List.length_cons]
      omega

/-- Settles O29: by induction on the calls, sixteen fill the stack. -/
theorem sixteenCallsSucceedAndTheSeventeenthOverflows : Obligations.SixteenCallsSucceedAndTheSeventeenthOverflows := by
  refine ⟨fun nnn s h => exec_op2NNN_of_full nnn h, ?_⟩
  intro s targets last hrun hsp hlen
  have h0 : s.sp.val = 0 := congrArg Fin.val hsp
  obtain ⟨t, ht, hstatus, hcount⟩ := execAll_calls targets s (by omega)
  have hfull : t.sp = 16 := by
    apply Fin.ext
    rw [hcount, h0, hlen]
    rfl
  exact ⟨t, ht, hstatus.trans hrun, hfull, exec_op2NNN_of_full last hfull⟩

/-- Settles O30: the return pops the entry the call pushed. -/
theorem callThenReturnResumesAfterTheCall : Obligations.CallThenReturnResumesAfterTheCall := by
  intro nnn s h
  have hne : ((s.pushed s.pc h).setPc (zextAddr nnn)).sp.val ≠ 0 := Nat.succ_ne_zero _
  have hpop := pop_of_ne hne
  refine ⟨_, _, exec_op2NNN_of_lt nnn h, exec_op00EE_of_pop hpop, ?_, ?_, ?_⟩
  · rw [State.setPc_pc]
    exact congrArg (· + 2) ((State.getElem_stack_pushed s.pc h ⟨s.sp.val, h⟩).trans (if_pos rfl))
  · intro k hk
    exact (State.getElem_stack_pushed s.pc h k).trans (if_neg hk)
  · refine SameExcept.of_cons (c := .sp) ?_ rfl
    exact ((sameExcept_pushed_setPc s.pc (zextAddr nnn) h).mono (by decide)).trans
      ((sameExcept_pop_setPc hpop _).mono (by decide))

end Sys2Proof.Machine

/-! # Logic, the left shift, the index register (41_alu.md section 3, 42_index_memory.md) -/

namespace Sys2Proof.Machine

/-! ## Meanings -/

theorem exec_op8XY1 (x y : RegIdx) (s : State) : exec (.op8XY1 x y) s = loadV x (s.readV x ||| s.readV y) s := rfl

theorem exec_op8XY2 (x y : RegIdx) (s : State) : exec (.op8XY2 x y) s = loadV x (s.readV x &&& s.readV y) s := rfl

theorem exec_op8XY3 (x y : RegIdx) (s : State) : exec (.op8XY3 x y) s = loadV x (s.readV x ^^^ s.readV y) s := rfl

theorem exec_op8XYE (x y : RegIdx) (s : State) :
    exec (.op8XYE x y) s = loadVFlag x (shlResult (s.readV y)) (shlFlag .normalized (s.readV y)) s := rfl

theorem exec_opFX1E (x : RegIdx) (s : State) :
    exec (.opFX1E x) s = loadIndex (trunc16 (s.index.toNat + (s.readV x).toNat)) s := rfl

theorem exec_opFX29 (x : RegIdx) (s : State) : exec (.opFX29 x) s = loadIndex (glyphAddr (s.readV x)) s := rfl

/-! ## Values -/

theorem toNat_shlResult (b : Byte) : (shlResult b).toNat = b.toNat * 2 % 256 := by
  rw [shlResult, toNat_trunc8, Nat.shiftLeft_eq, pow_one]

theorem toNat_shlFlag_normalized (b : Byte) : (shlFlag .normalized b).toNat = b.toNat / 128 := by
  rw [shlFlag, BitVec.toNat_ushiftRight, Nat.shiftRight_eq_div_pow]

/-- The raw flag is bit 7 in its place (log 7): what remains of the byte without its low seven bits. -/
theorem toNat_shlFlag_rawBit (b : Byte) : (shlFlag .rawBit b).toNat = b.toNat / 128 * 128 := by
  have hbit : b &&& (0x80 : Byte) = (b >>> 7) <<< 7 := by
    apply BitVec.eq_of_getLsbD_eq
    intro k hk
    interval_cases k <;> simp
  rw [shlFlag, hbit, BitVec.toNat_shiftLeft, BitVec.toNat_ushiftRight, Nat.shiftRight_eq_div_pow, Nat.shiftLeft_eq]
  omega

/-- A glyph's address is a small sum, which its truncation keeps (R100). -/
theorem toNat_glyphAddr (b : Byte) : (glyphAddr b).toNat = 0x050 + b.toNat * 5 := by
  rw [glyphAddr, toNat_trunc16, fontBase]
  omega

/-! ## The obligations -/

/-- Settles O34: each of the three is the shared register load, of its own byte. -/
theorem logicOperationsWriteOnlyVX : Obligations.LogicOperationsWriteOnlyVX := by
  intro x y s
  rw [exec_op8XY1, exec_op8XY2, exec_op8XY3]
  exact ⟨loadV_next_of (P := fun b => ∀ k < 8, b.getLsbD k = ((s.readV x).getLsbD k || (s.readV y).getLsbD k))
      (fun _ _ => BitVec.getLsbD_or) x s,
    loadV_next_of (P := fun b => ∀ k < 8, b.getLsbD k = ((s.readV x).getLsbD k && (s.readV y).getLsbD k))
      (fun _ _ => BitVec.getLsbD_and) x s,
    loadV_next_of (P := fun b => ∀ k < 8, b.getLsbD k = xor ((s.readV x).getLsbD k) ((s.readV y).getLsbD k))
      (fun _ _ => BitVec.getLsbD_xor) x s⟩

/-- Settles O38: the shared load with a flag, of VY's double and its bit 7. -/
theorem shiftLeftOfVYWritesTheLostBitLast : Obligations.ShiftLeftOfVYWritesTheLostBitLast := by
  refine ⟨fun x y s => ?_, fun b => ⟨toNat_shlFlag_normalized b, toNat_shlFlag_rawBit b⟩⟩
  rw [exec_op8XYE]
  exact loadVFlag_next (toNat_shlResult _) (toNat_shlFlag_normalized _) x s

/-- Settles O41: the shared index load, of the truncated sum and of the glyph's address. -/
theorem addToIndexWrapsAndGlyphAddressIsUnmasked : Obligations.AddToIndexWrapsAndGlyphAddressIsUnmasked := by
  intro x s
  rw [exec_opFX1E, exec_opFX29]
  exact ⟨loadIndex_next (toNat_trunc16 _) s, loadIndex_next (toNat_glyphAddr _) s⟩

end Sys2Proof.Machine

/-! # Memory instructions (42_index_memory.md): FX33, FX55, FX65 -/

namespace Sys2Proof.Machine

variable {x : RegIdx} {s : State}

/-! ## Meanings, on either side of the address check -/

theorem exec_opFX33_ok (h : s.index.toNat + 2 ≤ 0xFFF) :
    exec (.opFX33 x) s = .next (s.setMem (s.mem.writeBytes s.index.toNat (bcdDigits (s.readV x)))).advance :=
  requireAddrs_ok (.inr (by rw [memSize]; omega))

theorem exec_opFX33_bad (h : 0xFFF < s.index.toNat + 2) :
    exec (.opFX33 x) s = raise (.addressOutOfRange s.pc (some (asmXNN 0xF x 0x33)) (max s.index.toNat 0x1000)) s :=
  requireAddrs_bad (by omega) (by rw [memSize]; omega)

theorem exec_opFX55_ok (h : s.index.toNat + x.toNat ≤ 0xFFF) :
    exec (.opFX55 x) s =
      .next ((s.setMem (s.mem.writeBytes s.index.toNat (s.regBlock x))).stepIndex x).advance :=
  requireAddrs_ok (.inr (by rw [memSize, blockLen]; omega))

theorem exec_opFX55_bad (h : 0xFFF < s.index.toNat + x.toNat) :
    exec (.opFX55 x) s = raise (.addressOutOfRange s.pc (some (asmXNN 0xF x 0x55)) (max s.index.toNat 0x1000)) s :=
  requireAddrs_bad (Nat.succ_pos _) (by rw [memSize, blockLen]; omega)

theorem exec_opFX65_ok (h : s.index.toNat + x.toNat ≤ 0xFFF) :
    exec (.opFX65 x) s = .next ((s.loadBlock x).stepIndex x).advance :=
  requireAddrs_ok (.inr (by rw [memSize, blockLen]; omega))

theorem exec_opFX65_bad (h : 0xFFF < s.index.toNat + x.toNat) :
    exec (.opFX65 x) s = raise (.addressOutOfRange s.pc (some (asmXNN 0xF x 0x65)) (max s.index.toNat 0x1000)) s :=
  requireAddrs_bad (Nat.succ_pos _) (by rw [memSize, blockLen]; omega)

/-- Within memory, I advances by X + 1 with no reduction (R102, R103). -/
theorem toNat_trunc16_blockLen (h : s.index.toNat + x.toNat ≤ 0xFFF) :
    (trunc16 (s.index.toNat + blockLen x)).toNat = s.index.toNat + x.toNat + 1 := by
  rw [toNat_trunc16, blockLen]
  omega

/-! ## The bytes stored -/

/-- The stored digits read back (R101). -/
theorem read_bcdDigits {m : Memory} {base : Nat} (b : Byte) (hm : m.wf = true) (h : base + 2 ≤ 0xFFF) :
    ((m.writeBytes base (bcdDigits b)).read base).toNat = b.toNat / 100 ∧
      ((m.writeBytes base (bcdDigits b)).read (base + 1)).toNat = b.toNat / 10 % 10 ∧
      ((m.writeBytes base (bcdDigits b)).read (base + 2)).toNat = b.toNat % 10 := by
  have hlen : base + (bcdDigits b).length ≤ memSize := by rw [length_bcdDigits, memSize]; omega
  have h0 := Memory.read_writeBytes_inside hm hlen 0 (by simp)
  have h1 := Memory.read_writeBytes_inside hm hlen 1 (by simp)
  have h2 := Memory.read_writeBytes_inside hm hlen 2 (by simp)
  rw [Nat.add_zero] at h0
  rw [h0, h1, h2]
  simp only [bcdDigits, List.getElem_cons_zero, List.getElem_cons_succ, toNat_trunc8]
  omega

/-- The stored registers read back (R102). -/
theorem read_regBlock {m : Memory} {base : Nat} {r : RegIdx} (s : State) (hm : m.wf = true) (h : base + x.toNat ≤ 0xFFF)
    (hr : r.toNat ≤ x.toNat) : (m.writeBytes base (s.regBlock x)).read (base + r.toNat) = s.readV r := by
  have hlen : base + (s.regBlock x).length ≤ memSize := by rw [length_regBlock, memSize, blockLen]; omega
  have hk : r.toNat < (s.regBlock x).length := by rw [length_regBlock, blockLen]; omega
  rw [Memory.read_writeBytes_inside hm hlen r.toNat hk, getElem_regBlock, BitVec.ofNat_toNat, BitVec.setWidth_eq]

/-! ## The obligations -/

/-- Settles O42: the two answers of the address check over I..I+2. -/
theorem bcdStoresThreeDigitsOrFaults : Obligations.BcdStoresThreeDigitsOrFaults := by
  intro x s hm
  refine ⟨fun h => ?_, exec_opFX33_bad⟩
  obtain ⟨hundreds, tens, ones⟩ := read_bcdDigits (s.readV x) hm h
  refine ⟨_, exec_opFX33_ok h, hundreds, tens, ones, fun a ha => ?_, rfl,
    (sameExcept_setMem s _).append (sameExcept_advance _)⟩
  exact Memory.read_writeBytes_outside (by rw [length_bcdDigits]; omega)

/-- Settles O43: the two answers of the address check over I..I+X. -/
theorem storeRegistersWritesTheBlockOrFaults : Obligations.StoreRegistersWritesTheBlockOrFaults := by
  intro x s hm
  refine ⟨fun h => ?_, exec_opFX55_bad⟩
  refine ⟨_, exec_opFX55_ok h, fun r hr => read_regBlock s hm h hr, fun a ha => ?_, toNat_trunc16_blockLen h, rfl,
    (sameExcept_setMem s _).append (sameExcept_stepIndex_advance _ _)⟩
  exact Memory.read_writeBytes_outside (by rw [length_regBlock, blockLen]; omega)

/-- Settles O44: the two answers of the address check over I..I+X. -/
theorem loadRegistersReadsTheBlockOrFaults : Obligations.LoadRegistersReadsTheBlockOrFaults := by
  intro x s
  refine ⟨fun h => ?_, exec_opFX65_bad⟩
  refine ⟨_, exec_opFX65_ok h, fun r => ?_, ?_, ?_, (sameExcept_loadBlock s x).append (sameExcept_stepIndex_advance _ _)⟩
  · rw [State.readV_advance, State.readV_stepIndex, readV_loadBlock]
  · rw [State.advance_index, State.stepIndex_index, State.loadBlock_index, toNat_trunc16_blockLen h]
  · rw [State.advance_pc, State.stepIndex_pc, State.loadBlock_pc]

/-- Settles O45: the load of O44 reads the bytes the store of O43 wrote. -/
theorem storeThenLoadRestoresTheRegisters : Obligations.StoreThenLoadRestoresTheRegisters := by
  intro x s t w hm h hexec hmem hindex
  obtain ⟨t', ht', hstored, -, hindex', -, -⟩ := (storeRegistersWritesTheBlockOrFaults x s hm).1 h
  rw [hexec] at ht'
  cases ht'
  obtain ⟨u, hu, hloaded, hindexu, -, -⟩ := (loadRegistersReadsTheBlockOrFaults x w).1 (by rw [hindex]; exact h)
  refine ⟨u, hu, fun r hr => ?_, fun r hr => ?_, hindex', ?_⟩
  · rw [hloaded r, if_pos hr, hmem, hindex, hstored r hr]
  · rw [hloaded r, if_neg (by omega)]
  · apply BitVec.eq_of_toNat_eq
    rw [hindexu, hindex, hindex']

end Sys2Proof.Machine

/-! # Drawing (43_display.md sections 3 and 4) -/

namespace Sys2Proof.Machine

/-! ## A blit drawn twice -/

section
variable {edge : Config.SpriteEdge} {vx vy : Nat} {rows : List Byte}

/-- The second of two equal blits turns every struck cell back (R109). -/
theorem blit_blit (h : rows.length ≤ 32) (g : Grid) : (blit edge vx vy rows (blit edge vx vy rows g).1).1 = g := by
  apply Grid.ext_cell
  intro px py
  by_cases hs : SpriteStrikes edge vx vy rows px py
  · rw [cell_blit_struck h _ hs, cell_blit_struck h _ hs, Bool.not_not]
  · rw [cell_blit_other h _ hs, cell_blit_other h _ hs]

/-- The second of two equal blits collides exactly where a struck cell was off before the first (R109). -/
theorem collision_blit_blit (h : rows.length ≤ 32) (g : Grid) :
    (blit edge vx vy rows (blit edge vx vy rows g).1).2 = true ↔
      ∃ px py, SpriteStrikes edge vx vy rows px py ∧ g.cell px py = false := by
  rw [collision_blit h]
  refine exists_congr fun px => exists_congr fun py => and_congr_right fun hs => ?_
  rw [cell_blit_struck h g hs, Bool.not_eq_true']

end

/-- Settles O50: a sprite of at most 32 rows strikes no cell twice, under either edge policy. -/
theorem blitIsItsOwnInverseUnderEitherEdgePolicy : Obligations.BlitIsItsOwnInverseUnderEitherEdgePolicy := by
  intro edge vx vy rows g hlen
  have hrows : rows.length ≤ 32 := by omega
  exact ⟨blit_blit hrows g, collision_blit hrows g, collision_blit_blit hrows g⟩

/-! ## The cells a DXYN strikes -/

/-- The cells that the N bytes from I, drawn at (VX, VY), strike under the wrapping edge. -/
def State.Strikes (s : State) (x y : RegIdx) (n : Nibble) (px : Fin 64) (py : Fin 32) : Prop :=
  ∃ r c : Nat, r < n.toNat ∧ c < 8 ∧ (s.mem.read (s.index.toNat + r)).getLsbD (7 - c) = true ∧
    ((s.readV x).toNat + c) % 64 = px.val ∧ ((s.readV y).toNat + r) % 32 = py.val

@[simp] theorem length_sprite (s : State) (n : Nibble) : (s.sprite n).length = n.toNat := Memory.length_readBytes _ _ _

theorem getElem_sprite {s : State} {n : Nibble} {r : Nat} (h : r < (s.sprite n).length) :
    (s.sprite n)[r] = s.mem.read (s.index.toNat + r) := Memory.getElem_readBytes h

theorem length_sprite_le (s : State) (n : Nibble) : (s.sprite n).length ≤ 32 := by
  rw [length_sprite]
  omega

theorem place_wrap_eq_some {u w : Nat} {px : Fin 64} {py : Fin 32} :
    place .wrap u w = some (px, py) ↔ u % 64 = px.val ∧ w % 32 = py.val := by
  simp only [place, Option.some.injEq, Prod.mk.injEq, Fin.ext_iff]

variable {s : State} {x y : RegIdx} {n : Nibble} {px : Fin 64} {py : Fin 32}

theorem spriteStrikes_iff :
    SpriteStrikes Params.spriteEdge (s.readV x).toNat (s.readV y).toNat (s.sprite n) px py ↔ s.Strikes x y n px py := by
  refine exists_congr fun r => exists_congr fun c => ?_
  simp only [Params.spriteEdge, place_wrap_eq_some, getElem_sprite, length_sprite, exists_prop]

theorem cell_drawn_struck (h : s.Strikes x y n px py) : (s.drawn x y n).1.cell px py = !s.grid.cell px py :=
  cell_blit_struck (length_sprite_le s n) s.grid (spriteStrikes_iff.2 h)

theorem cell_drawn_other (h : ¬ s.Strikes x y n px py) : (s.drawn x y n).1.cell px py = s.grid.cell px py :=
  cell_blit_other (length_sprite_le s n) s.grid (fun hs => h (spriteStrikes_iff.1 hs))

theorem collision_drawn : (s.drawn x y n).2 = true ↔ ∃ px py, s.Strikes x y n px py ∧ s.grid.cell px py = true := by
  rw [State.drawn, collision_blit (length_sprite_le s n)]
  simp only [spriteStrikes_iff]

/-! ## Meanings -/

theorem bool01_eq_zero_or_one (c : Bool) : bool01 c = 0 ∨ bool01 c = 1 := by
  cases c
  · exact .inl rfl
  · exact .inr rfl

theorem bool01_eq_one_iff {c : Bool} : bool01 c = 1 ↔ c = true := by
  cases c <;> decide

theorem exec_opDXYN_ok (h : n.toNat = 0 ∨ s.index.toNat + n.toNat ≤ 0x1000) :
    exec (.opDXYN x y n) s =
      .next ((s.setGrid (s.drawn x y n).1).setV flagReg (bool01 (s.drawn x y n).2)).markRedraw.advance :=
  requireAddrs_ok h

theorem exec_opDXYN_bad (h0 : 0 < n.toNat) (h : 0xFFF < s.index.toNat + n.toNat - 1) :
    exec (.opDXYN x y n) s =
      raise (.addressOutOfRange s.pc (some (asmXYN 0xD x y n)) (max s.index.toNat 0x1000)) s :=
  requireAddrs_bad h0 (by rw [memSize]; omega)

/-- The registers after a draw: VF the collision, the others as before. -/
theorem readV_drawn (g : Grid) (b : Byte) (r : RegIdx) :
    ((s.setGrid g).setV flagReg b).markRedraw.advance.readV r = if r = 15 then b else s.readV r := by
  rw [State.readV_advance, State.readV_markRedraw, State.readV_setV, State.readV_setGrid, flagReg]

/-! ## The obligations -/

/-- Settles O47: the blit of the sprite's bytes, the flag its collision. -/
theorem drawTogglesTheStruckCellsAndFlagsCollision : Obligations.DrawTogglesTheStruckCellsAndFlagsCollision := by
  intro x y n s h struck
  have hv (r : RegIdx) := readV_drawn (s := s) (s.drawn x y n).1 (bool01 (s.drawn x y n).2) r
  have hflag := (hv 15).trans (if_pos rfl)
  refine ⟨_, exec_opDXYN_ok h, fun _ _ => cell_drawn_struck, fun _ _ => cell_drawn_other, ?_, ?_,
    fun r hr => (hv r).trans (if_neg hr), rfl, rfl, sameExcept_drawn s _ _⟩
  · rw [hflag]; exact bool01_eq_zero_or_one _
  · rw [hflag, bool01_eq_one_iff]; exact collision_drawn

/-- Settles O48: the address check fails before the blit. -/
theorem drawPastTheEndOfMemoryFaults : Obligations.DrawPastTheEndOfMemoryFaults :=
  fun _ _ _ _ h0 h => exec_opDXYN_bad h0 h

/-- Two states with the same I draw the same sprite where its bytes are the same. -/
theorem sprite_congr {w : State} (hi : w.index = s.index)
    (hm : ∀ r < n.toNat, w.mem.read (s.index.toNat + r) = s.mem.read (s.index.toNat + r)) : w.sprite n = s.sprite n := by
  rw [State.sprite, State.sprite, Memory.readBytes, Memory.readBytes, hi]
  exact List.map_congr_left fun r hr => hm r (List.mem_range.1 hr)

/-- Settles O49: the second draw is the first one's blit again, on the grid that the first left. -/
theorem drawingTheSameSpriteTwiceRestoresEveryCell : Obligations.DrawingTheSameSpriteTwiceRestoresEveryCell := by
  intro x y n s t w u h struck ht hgrid hindex hmem hx hy hu
  rw [exec_opDXYN_ok h, Host.Outcome.next.injEq] at ht
  rw [exec_opDXYN_ok (hindex ▸ h), Host.Outcome.next.injEq] at hu
  have hwgrid : w.grid = (s.drawn x y n).1 := by rw [hgrid, ← ht]; rfl
  have hdrawn : w.drawn x y n = blit Params.spriteEdge (s.readV x).toNat (s.readV y).toNat (s.sprite n) (s.drawn x y n).1 := by
    rw [State.drawn, hx, hy, sprite_congr hindex hmem, hwgrid]
  have hugrid : u.grid = s.grid := by
    rw [← hu]
    exact (congrArg Prod.fst hdrawn).trans (blit_blit (length_sprite_le s n) s.grid)
  refine ⟨fun px py => by rw [hugrid], ?_⟩
  rw [← hu, readV_drawn, if_pos rfl, bool01_eq_one_iff, hdrawn, State.drawn, collision_blit_blit (length_sprite_le s n)]
  simp only [spriteStrikes_iff]
  rfl

end Sys2Proof.Machine

/-! # Keys and timers (44_keys_timers.md): the key skips, the key wait, the timer writes -/

namespace Sys2Proof.Machine

variable {s t u : State} {x : RegIdx} {i : Instr}

/-! ## Meanings -/

theorem exec_opEX9E (x : RegIdx) (s : State) : exec (.opEX9E x) s = skipOnKey (.opEX9E x) x true s := rfl

theorem exec_opEXA1 (x : RegIdx) (s : State) : exec (.opEXA1 x) s = skipOnKey (.opEXA1 x) x false s := rfl

theorem exec_opFX15 (x : RegIdx) (s : State) : exec (.opFX15 x) s = .next (s.setDt (s.readV x)).advance := rfl

theorem exec_opFX18 (x : RegIdx) (s : State) : exec (.opFX18 x) s = .next (s.setSt (s.readV x)).advance := rfl

theorem exec_opFX0A_latched {k : KeyIdx} (x : RegIdx) (h : s.latch = some k) :
    exec (.opFX0A x) s = loadV x (zextKey k) s := by
  have e : exec (.opFX0A x) s = execFX0A x s := rfl
  rw [e, execFX0A, h]

theorem exec_opFX0A_waiting (x : RegIdx) (h : s.latch = none) : exec (.opFX0A x) s = .next s := by
  have e : exec (.opFX0A x) s = execFX0A x s := rfl
  rw [e, execFX0A, h]

/-- A register that names a key skips on that key's flag. -/
theorem skipOnKey_of_key {k : KeyIdx} (h : (s.readV x).toNat = k.toNat) (want : Bool) :
    skipOnKey i x want s = skipIf (s.readKey k == want) s := by
  rw [skipOnKey, keyOf_eq_some.2 h]

/-- A register above 15 names no key (R111). -/
theorem skipOnKey_of_large (h : 15 < (s.readV x).toNat) (want : Bool) :
    skipOnKey i x want s = raise (.keyIndexOutOfRange s.pc (encode i) (s.readV x)) s := by
  rw [skipOnKey, keyOf_eq_none.2 h]

@[simp] theorem toNat_zextKey (k : KeyIdx) : (zextKey k).toNat = k.toNat := BitVec.toNat_setWidth_of_le (by decide)

/-! ## The step of an instruction whose execute phase completed -/

theorem step_of_exec (h : RunsNext s i) (he : exec i s.clearOutputs = .next u) (hu : u.status = .running) :
    step s = .next (u.endOfStep s.nextOpcode) := by
  rw [step_runsNext h, he, finish_next, if_pos hu]

/-- A core with the same Status, memory and PC runs the same instruction next. -/
theorem RunsNext.congr (h : RunsNext s i) (hstatus : t.status = s.status) (hmem : t.mem = s.mem) (hpc : t.pc = s.pc) :
    RunsNext t i := by
  have hop : t.nextOpcode = s.nextOpcode := by rw [State.nextOpcode, State.nextOpcode, hmem, hpc]
  obtain ⟨hrun, hfetch, hdecode⟩ := h
  exact ⟨hstatus.trans hrun, hpc ▸ hfetch, hop ▸ hdecode⟩

/-- A step that waits for a key changes the outputs, the timers and OpcodeReg alone. -/
theorem step_opFX0A_waiting (h : RunsNext s (.opFX0A x)) (hl : s.latch = none) :
    step s = .next (s.clearOutputs.endOfStep s.nextOpcode) :=
  step_of_exec h (exec_opFX0A_waiting x hl) h.1

/-- A step that takes the latched key. -/
theorem step_opFX0A_latched {k : KeyIdx} (h : RunsNext s (.opFX0A x)) (hl : s.latch = some k) :
    step s = .next ((s.clearOutputs.setV x (zextKey k)).advance.endOfStep s.nextOpcode) :=
  step_of_exec h (exec_opFX0A_latched x hl) h.1

theorem stepN_succ (n : Nat) (h : step s = .next t) : stepN (n + 1) s = stepN n t := by
  rw [stepN, h]

/-! ## The obligations -/

/-- Settles O51: the shared skip on the named key's flag, or the fault above 15. -/
theorem keySkipsReadTheFlagOrFault : Obligations.KeySkipsReadTheFlagOrFault := by
  intro x s
  rw [exec_opEX9E, exec_opEXA1]
  refine ⟨fun k hk => ?_, fun h => ⟨skipOnKey_of_large h true, skipOnKey_of_large h false⟩⟩
  rw [skipOnKey_of_key hk, skipOnKey_of_key hk]
  exact ⟨skipIf_next beq_iff_eq s, skipIf_next beq_iff_eq s⟩

/-- Settles O53: with a key latched, the shared register load; with none, the state itself. -/
theorem keyWaitTakesTheLatchedKeyOrHolds : Obligations.KeyWaitTakesTheLatchedKeyOrHolds := by
  intro x s
  refine ⟨fun k hk => ?_, exec_opFX0A_waiting x, fun h => ?_⟩
  · rw [exec_opFX0A_latched x hk]
    exact loadV_next_of (P := fun b => b.toNat = k.toNat) (toNat_zextKey k) x s
  · cases hl : s.latch with
    | none => exact ⟨_, step_opFX0A_waiting h hl, h.1, rfl, toNat_tickTimer _, toNat_tickTimer _⟩
    | some k => exact ⟨_, step_opFX0A_latched h hl, h.1, rfl, toNat_tickTimer _, toNat_tickTimer _⟩

/-- A press makes the next step of a waiting core take the key. -/
theorem step_opFX0A_pressed (h : RunsNext s (.opFX0A x)) (k : KeyIdx) :
    ∃ u, step (setKey k true s) = .next u ∧ (u.readV x).toNat = k.toNat ∧ u.pc = s.pc + 2 ∧ u.latch = none := by
  have hpressed : RunsNext (setKey k true s) (.opFX0A x) := h.congr rfl rfl rfl
  refine ⟨_, step_opFX0A_latched hpressed rfl, ?_, rfl, rfl⟩
  rw [State.readV_endOfStep, State.readV_advance, State.readV_setV, if_pos rfl, toNat_zextKey]

/-- Settles O54: by induction on the waiting steps; each leaves a core that waits on. -/
theorem keyWaitHoldsForAnyNumberOfStepsUntilAKeyIsPressed :
    Obligations.KeyWaitHoldsForAnyNumberOfStepsUntilAKeyIsPressed := by
  intro n x
  induction n with
  | zero => exact fun s h _ => ⟨s, rfl, rfl, fun _ => rfl, rfl, rfl, step_opFX0A_pressed h⟩
  | succ n ih =>
    intro s h hl
    have hnext : RunsNext (s.clearOutputs.endOfStep s.nextOpcode) (.opFX0A x) := h.congr rfl rfl rfl
    obtain ⟨t, ht, hpc, hv, hdt, hst, hpress⟩ := ih _ hnext rfl
    rw [State.endOfStep_dt, toNat_tickTimer, State.clearOutputs_dt] at hdt
    rw [State.endOfStep_st, toNat_tickTimer, State.clearOutputs_st] at hst
    exact ⟨t, (stepN_succ n (step_opFX0A_waiting h hl)).trans ht, hpc, hv, by omega, by omega, hpress⟩

/-- Settles O55: the timer the instruction wrote is the one the end of the step ticks. -/
theorem timerWritesTakeVXAndAreTickedInTheSameStep : Obligations.TimerWritesTakeVXAndAreTickedInTheSameStep := by
  intro x s
  refine ⟨⟨_, exec_opFX15 x s, rfl, rfl, (sameExcept_setDt s _).append (sameExcept_advance _)⟩,
    ⟨_, exec_opFX18 x s, rfl, rfl, (sameExcept_setSt s _).append (sameExcept_advance _)⟩, fun h => ?_, fun h => ?_⟩
  · exact ⟨_, step_of_exec h (exec_opFX15 x _) h.1, h.1, toNat_tickTimer _⟩
  · exact ⟨_, step_of_exec h (exec_opFX18 x _) h.1, h.1, toNat_tickTimer _, beq_iff_eq⟩

end Sys2Proof.Machine

/-! # Whole-machine rules: which instruction writes what (10_state.md, 20_memory.md section 1) -/

namespace Sys2Proof.Machine

variable {s t u : State} {i : Instr}

/-! ## Who may write an element -/

theorem dt_mem_mayWrite : .dt ∈ mayWrite i ↔ ∃ x, i = .opFX15 x := by
  cases i <;> simp [mayWrite]

theorem st_mem_mayWrite : .st ∈ mayWrite i ↔ ∃ x, i = .opFX18 x := by
  cases i <;> simp [mayWrite]

theorem rng_mem_mayWrite : .rng ∈ mayWrite i ↔ ∃ x nn, i = .opCXNN x nn := by
  cases i <;> simp [mayWrite]

theorem redraw_mem_mayWrite : .redraw ∈ mayWrite i ↔ i = .op00E0 ∨ ∃ x y n, i = .opDXYN x y n := by
  cases i <;> simp [mayWrite]

theorem mem_mem_mayWrite : .mem ∈ mayWrite i ↔ ∃ x, i = .opFX33 x ∨ i = .opFX55 x := by
  cases i <;> simp [mayWrite]

theorem keys_notMem_mayWrite (i : Instr) : Component.keys ∉ mayWrite i := by
  cases i <;> simp [mayWrite]

/-! ## The timers and the outputs of a completed step -/

/-- An execute phase that completed asserted redraw exactly for 00E0 and DXYN (30_encoding.md R72, D18). -/
theorem redraw_of_exec (h : exec i s = .next t) (hs : s.redraw = false) (ht : t.status = .running) :
    t.redraw = true ↔ i = .op00E0 ∨ ∃ x y n, i = .opDXYN x y n := by
  by_cases hi : .redraw ∈ mayWrite i
  · refine iff_of_true ?_ (redraw_mem_mayWrite.1 hi)
    have ha : Answers i s (·.redraw = true) (exec i s) := by
      rcases redraw_mem_mayWrite.1 hi with rfl | ⟨x, y, n, rfl⟩
      · exact answers_next rfl
      · exact answers_requireAddrs rfl fun _ => rfl
    rw [h] at ha
    rcases ha.of_next with hr | ⟨f, -, rfl⟩
    · exact hr
    · cases ht
  · refine iff_of_false ?_ (mt redraw_mem_mayWrite.2 hi)
    have hframe : t.redraw = s.redraw := sameExcept_of_exec h ht .redraw hi
    rw [hframe, hs]
    decide

/-- Settles O8: a completed step is its execute phase and the end of step. -/
theorem completedStepTicksClearsTheLatchAndRecordsTheOpcode :
    Obligations.CompletedStepTicksClearsTheLatchAndRecordsTheOpcode := by
  intro s t _ hstep ht
  obtain ⟨i, u, hi, hu, -, rfl⟩ := step_completed hstep ht
  exact ⟨i, u, hi, hu, toNat_tickTimer _, toNat_tickTimer _, beq_iff_eq, rfl, rfl,
    redraw_of_exec (t := u) hu (State.clearOutputs_redraw s) ht, (sameExcept_endOfStep u _).mono (by decide), rfl⟩

/-- Settles O9: an instruction that does not write a timer leaves it to the tick as it was before the step. -/
theorem everyCompletedStepTicksBothTimersOnce : Obligations.EveryCompletedStepTicksBothTimersOnce := by
  intro s t _ hstep ht
  obtain ⟨i, u, hi, -, hframe, rfl⟩ := step_completed hstep ht
  constructor
  · intro hno
    have hdt : u.dt = s.dt := hframe .dt fun hm => by
      obtain ⟨x, rfl⟩ := dt_mem_mayWrite.1 hm
      exact hno x hi
    rw [State.endOfStep_dt, toNat_tickTimer, hdt]
  · intro hno
    have hst : u.st = s.st := hframe .st fun hm => by
      obtain ⟨x, rfl⟩ := st_mem_mayWrite.1 hm
      exact hno x hi
    rw [State.endOfStep_st, toNat_tickTimer, State.endOfStep_beep, hst]
    exact ⟨rfl, beq_iff_eq⟩

end Sys2Proof.Machine

/-! # Power-on and the host operations (70_reset_and_hazards.md, 10_state.md section 11) -/

namespace Sys2Proof.Machine

variable {s t : State} {bytes : List Byte}

/-! ## The state after each operation -/

theorem HostOp.after_powerOn (s : State) : HostOp.powerOn.after s = State.reset := rfl

theorem installFontset_of_le (h : bytes.length ≤ fontLen) (s : State) :
    installFontset bytes s = .ok (s.setMem (s.mem.writeBytes fontBase bytes)) :=
  if_neg (Nat.not_lt.mpr h)

theorem installFontset_of_lt (h : fontLen < bytes.length) (s : State) :
    installFontset bytes s = .error .capacityExceeded :=
  if_pos h

/-- The state a program is loaded into (R143, D12). -/
def State.loaded (s : State) (bytes : List Byte) : State :=
  { s with
    mem := s.mem.writeBytes progBase bytes
    pc := 0x0200
    index := 0x0000
    stack := Vector.replicate 16 0x0000
    sp := 0 }

theorem loadProgram_of_le (h : bytes.length ≤ maxRom) (s : State) : loadProgram bytes s = .ok (s.loaded bytes) :=
  if_neg (Nat.not_lt.mpr h)

/-- A font blob is installed where it fits, and changes nothing where it does not. -/
theorem HostOp.after_installFontset (bytes : List Byte) (s : State) :
    (bytes.length ≤ fontLen ∧ (HostOp.installFontset bytes).after s = s.setMem (s.mem.writeBytes fontBase bytes)) ∨
      (HostOp.installFontset bytes).after s = s := by
  rcases le_or_gt bytes.length fontLen with h | h
  · exact .inl ⟨h, after_of_run_ok (installFontset_of_le h s)⟩
  · exact .inr (after_of_run_error (installFontset_of_lt h s))

/-- A program is loaded where it fits, and changes nothing where it does not. -/
theorem HostOp.after_loadProgram (bytes : List Byte) (s : State) :
    (bytes.length ≤ maxRom ∧ (HostOp.loadProgram bytes).after s = s.loaded bytes) ∨
      (HostOp.loadProgram bytes).after s = s := by
  rcases le_or_gt bytes.length maxRom with h | h
  · exact .inl ⟨h, after_of_run_ok (loadProgram_of_le h s)⟩
  · exact .inr (after_of_run_error (loadProgram_error_of_lt h s))

/-! ## Frames -/

theorem sameExcept_loaded (s : State) (bytes : List Byte) :
    SameExcept [.mem, .pc, .index, .stack, .sp] s (s.loaded bytes) := by
  apply sameExcept_of <;> intro h <;> first | exact absurd (by decide) h | (intros; rfl)

theorem sameExcept_setKey (k : KeyIdx) (pressed : Bool) (s : State) :
    SameExcept [.keys, .latch] s (Machine.setKey k pressed s) := by
  apply sameExcept_of <;> intro h <;> first | exact absurd (by decide) h | (intros; rfl)

/-- What the two loads may write, whether they succeed or fail. -/
theorem sameExcept_after_installFontset (bytes : List Byte) (s : State) :
    SameExcept [.mem] s ((HostOp.installFontset bytes).after s) := by
  rcases HostOp.after_installFontset bytes s with ⟨-, e⟩ | e
  · rw [e]; exact sameExcept_setMem s _
  · rw [e]; exact sameExcept_refl _ s

theorem sameExcept_after_loadProgram (bytes : List Byte) (s : State) :
    SameExcept [.mem, .pc, .index, .stack, .sp] s ((HostOp.loadProgram bytes).after s) := by
  rcases HostOp.after_loadProgram bytes s with ⟨-, e⟩ | e
  · rw [e]; exact sameExcept_loaded s bytes
  · rw [e]; exact sameExcept_refl _ s

/-- No host operation but power-on writes a register, a timer, the grid, OpcodeReg, Status, the generator or an output. -/
theorem HostOp.sameExcept_after {o : HostOp} (h : o ≠ .powerOn) (s : State) :
    SameExcept [.mem, .pc, .index, .stack, .sp, .keys, .latch] s (o.after s) := by
  cases o with
  | powerOn => exact absurd rfl h
  | installFontset bytes => exact (sameExcept_after_installFontset bytes s).mono (by decide)
  | loadProgram bytes => exact (sameExcept_after_loadProgram bytes s).mono (by decide)
  | setKey k pressed => exact (sameExcept_setKey k pressed s).mono (by decide)

theorem readKey_setKey (k j : KeyIdx) (pressed : Bool) (s : State) :
    (Machine.setKey k pressed s).readKey j = if j = k then pressed else s.readKey j := by
  simp only [State.readKey, Machine.setKey, Vector.getElem_set, BitVec.toNat_inj, eq_comm]

/-! ## The obligations -/

/-- Settles O13: Status is in the frame of every host operation but power-on. -/
theorem faultedCoreIsStuckUntilPowerOn : Obligations.FaultedCoreIsStuckUntilPowerOn := by
  intro s f hs
  refine ⟨step_faulted hs, fun o ho => ?_, rfl⟩
  have hstatus : (o.after s).status = s.status := HostOp.sameExcept_after ho s .status (by decide)
  rw [hstatus, hs]

/-- Settles O56: the values of `State.reset`, read one by one. -/
theorem powerOnLeavesTheValuesOfTheTable : Obligations.PowerOnLeavesTheValuesOfTheTable := by
  refine ⟨HostOp.after_powerOn, fun _ => rfl, by decide, fun k => ?_, rfl, fun r => ?_, rfl, rfl, rfl, rfl, fun k => ?_, rfl,
    Grid.cell_clear, rfl, rfl, rfl⟩
  · exact Vector.getElem_replicate k.isLt
  · exact Vector.getElem_replicate r.isLt
  · exact Vector.getElem_replicate k.isLt

/-- Settles O57: the length check, and the write of the blob's own length. -/
theorem installFontsetCopiesOrFails : Obligations.InstallFontsetCopiesOrFails := by
  intro bytes s hm
  refine ⟨fun h => ?_, fun h => ?_⟩
  · have hlen : fontBase + bytes.length ≤ memSize := by rw [fontBase, memSize]; omega
    exact ⟨_, installFontset_of_le h s, fun k hk => Memory.read_writeBytes_inside hm hlen k hk,
      fun a ha => Memory.read_writeBytes_outside ha, sameExcept_setMem s _⟩
  · have herr := installFontset_of_lt h s
    exact ⟨herr, HostOp.after_of_run_error herr⟩

/-- A load that succeeded had room and left the loaded state. -/
theorem loadProgram_eq_ok (h : loadProgram bytes s = .ok t) : bytes.length ≤ maxRom ∧ t = s.loaded bytes := by
  rcases le_or_gt bytes.length maxRom with hle | hlt
  · rw [loadProgram_of_le hle] at h
    cases h
    exact ⟨hle, rfl⟩
  · rw [loadProgram_error_of_lt hlt] at h
    cases h

/-- Settles O59: the write of the ROM, and the fetch of its first two bytes. -/
theorem loadProgramCopiesAndResetsPcIndexAndStack : Obligations.LoadProgramCopiesAndResetsPcIndexAndStack := by
  intro bytes s t hm hload
  obtain ⟨hle, rfl⟩ := loadProgram_eq_ok hload
  rw [maxRom] at hle
  have hlen : progBase + bytes.length ≤ memSize := by rw [progBase, memSize]; omega
  have hread : ∀ k, ∀ h : k < bytes.length, (s.loaded bytes).mem.read (0x200 + k) = bytes[k] := fun k hk =>
    Memory.read_writeBytes_inside hm hlen k hk
  refine ⟨hread, fun a ha => Memory.read_writeBytes_outside ha, rfl, rfl, rfl,
    fun k => Vector.getElem_replicate k.isLt, sameExcept_loaded s bytes, fun h => ?_⟩
  have hop : (s.loaded bytes).nextOpcode =
      opcodeOfBytes ((s.loaded bytes).mem.read (0x200 + 0)) ((s.loaded bytes).mem.read (0x200 + 1)) := rfl
  rw [hop, toNat_opcodeOfBytes, hread 0 (by omega), hread 1 (by omega)]

/-- Settles O60: one flag and the latch are written. -/
theorem setKeySetsTheFlagAndLatchesAPress : Obligations.SetKeySetsTheFlagAndLatchesAPress := by
  intro k pressed s
  exact ⟨(readKey_setKey k k pressed s).trans (if_pos rfl), fun j hj => (readKey_setKey k j pressed s).trans (if_neg hj),
    rfl, rfl, sameExcept_setKey k pressed s⟩

end Sys2Proof.Machine

/-! # Writers of keys, generator, registers and memory (10_state.md sections 2, 6 and 8, 20_memory.md section 1) -/

namespace Sys2Proof.Machine

variable {s t : State} {i : Instr}

/-- An element outside an instruction's frame, and not an output, timer, latch, OpcodeReg or Status, is kept by the step that runs
the instruction, whether it completes or faults. -/
theorem same_of_step {c : Component} (h : step s = .next t) (hi : ∀ i, RunsNext s i → c ∉ mayWrite i)
    (hc : c ∉ [.dt, .st, .beep, .redraw, .latch, .opcodeReg, .status]) : c.same s t := by
  have drop (cs : List Component) (hcs : ∀ d ∈ cs, d ∈ [.dt, .st, .beep, .redraw, .latch, .opcodeReg, .status]) : c ∉ cs :=
    fun hm => hc (hcs c hm)
  rcases step_next_cases h with ⟨f, -, rfl⟩ | ⟨i, u, hrun, -, hframe, rfl⟩
  · exact sameExcept_enterFault s f c (drop _ (by decide))
  · have hclear := sameExcept_clearOutputs s c (drop _ (by decide))
    have hend := sameExcept_endOfStep u s.nextOpcode c (drop _ (by decide))
    exact Component.same_trans (Component.same_trans hclear (hframe c (hi i hrun))) hend

/-- Settles O19: the keys are in the frame of every step and of the two loads. -/
theorem keysAreMutatedOnlyByTheHost : Obligations.KeysAreMutatedOnlyByTheHost := by
  refine ⟨fun s t h => same_of_step (c := .keys) h (fun i _ => keys_notMem_mayWrite i) (by decide), fun s o ho k => ?_⟩
  cases o with
  | powerOn => exact absurd rfl ho
  | installFontset bytes => exact sameExcept_after_installFontset bytes s .keys (by decide) k
  | loadProgram bytes => exact sameExcept_after_loadProgram bytes s .keys (by decide) k
  | setKey j pressed => exact readKey_setKey j k pressed s

/-- A step that runs CXNN draws once: CXNN raises no fault. -/
theorem rng_of_step_opCXNN {x : RegIdx} {nn : Byte} (hi : RunsNext s (.opCXNN x nn)) (h : step s = .next t) :
    t.rng = (Config.rngNext s.rng).1 := by
  have e : step s = _ := step_of_exec hi (exec_opCXNN x nn s.clearOutputs) hi.1
  rw [h] at e
  cases e
  rfl

/-- Settles O20: the generator is in the frame of every instruction but CXNN. -/
theorem onlyTheRandomInstructionAdvancesTheGenerator : Obligations.OnlyTheRandomInstructionAdvancesTheGenerator := by
  refine ⟨fun s t h => ⟨fun x nn hi => rng_of_step_opCXNN hi h, fun hno => ?_⟩, fun s o ho =>
    HostOp.sameExcept_after ho s .rng (by decide)⟩
  refine same_of_step (c := .rng) h (fun i hi hm => ?_) (by decide)
  obtain ⟨x, nn, rfl⟩ := rng_mem_mayWrite.1 hm
  exact hno x nn hi

/-! ## General registers -/

/-- A register other than the one written reads as before. -/
theorem readV_setV_of_beq {x r : RegIdx} {b : Byte} (h : (r == x) = false) : (s.setV x b).readV r = s.readV r := by
  rw [State.readV_setV, if_neg (beq_eq_false_iff_ne.1 h)]

/-- A register other than the one written and VF reads as before. -/
theorem readV_setV_setV_of_beq {x r : RegIdx} {b c : Byte} (h : (r == x || r == flagReg) = false) :
    ((s.setV x b).setV flagReg c).readV r = s.readV r := by
  obtain ⟨hx, hf⟩ := Bool.or_eq_false_iff.1 h
  rw [readV_setV_of_beq hf, readV_setV_of_beq hx]

/-- Every register not named for an instruction is kept, whether it completes or faults (R18). -/
theorem readV_of_exec {r : RegIdx} (h : exec i s = .next t) (hr : mayWriteV i s r = false) : t.readV r = s.readV r := by
  refine Answers.of_exec (P := fun u => u.readV r = s.readV r) ?_ (fun f => State.readV_enterFault s f r) h
  by_cases hi : .v ∈ mayWrite i
  · cases i with
    | op6XNN | op7XNN | op8XY0 | op8XY1 | op8XY2 | op8XY3 | opCXNN | opFX07 => exact answers_next (readV_setV_of_beq hr)
    | op8XY4 | op8XY5 | op8XY6 | op8XY7 | op8XYE => exact answers_next (readV_setV_setV_of_beq hr)
    | opDXYN => exact answers_requireAddrs rfl fun _ => readV_setV_of_beq hr
    | opFX0A =>
      refine answers_execFX0A (fun _ => rfl) fun k hk => readV_setV_of_beq ?_
      rwa [mayWriteV, hk, Option.isSome_some, Bool.true_and] at hr
    | opFX65 x =>
      refine answers_requireAddrs rfl fun _ => ?_
      rw [State.readV_advance, State.readV_stepIndex, readV_loadBlock, if_neg (of_decide_eq_false hr)]
    | _ => simp [mayWrite] at hi
  · exact (exec_answers i s).mono fun u hframe => hframe .v hi r

/-- Settles O22: the named writers of each instruction, and the frame of the host operations. -/
theorem generalRegistersHaveOnlyTheirNamedWriters : Obligations.GeneralRegistersHaveOnlyTheirNamedWriters :=
  ⟨fun _ _ _ _ => readV_of_exec, fun s _ r ho => HostOp.sameExcept_after ho s .v (by decide) r⟩

/-! ## Memory -/

/-- Settles O23: FX33 and FX55 write the run they store; memory is in the frame of every other instruction. -/
theorem onlyTheStoredBytesOfMemoryChange : Obligations.OnlyTheStoredBytesOfMemoryChange := by
  intro i s t h a ha
  refine Answers.of_exec (P := fun u => u.mem.read a = s.mem.read a) ?_ (fun _ => rfl) h
  by_cases hi : .mem ∈ mayWrite i
  · obtain ⟨x, rfl | rfl⟩ := mem_mem_mayWrite.1 hi
    · exact answers_requireAddrs rfl fun _ => Memory.read_writeBytes_outside ha
    · refine answers_requireAddrs rfl fun _ => Memory.read_writeBytes_outside ?_
      rwa [length_regBlock]
  · exact (exec_answers i s).mono fun u hframe => hframe .mem hi a

end Sys2Proof.Machine

/-! # Faults (60_exceptions.md section 1, 30_encoding.md section 3, 20_memory.md section 2) -/

namespace Sys2Proof.Machine

variable {s t : State} {i : Instr} {f : Fault}

/-- A word of the 0 family other than the two instructions is the 0NNN case (30_encoding.md R63). -/
theorem decode_of_family0 {op : Word} (hf : fieldN1 op = 0x0) (h0 : op ≠ 0x00E0) (hE : op ≠ 0x00EE) :
    decode op = .ok (.op0NNN (fieldNNN op)) :=
  (decode_family0 hf).trans (congrArg Except.ok ((if_neg h0).trans (if_neg hE)))

/-- A word that does not decode faults, with that word in the record. -/
theorem step_of_decode_error {e : DecodeReject} (h : s.status = .running) (hp : s.pc.toNat ≤ 0xFFE)
    (hd : decode s.nextOpcode = .error e) : step s = raise (.unknownInstruction s.pc s.nextOpcode) s := by
  rw [step_running h, runCycle, fetch_ok hp]
  simp only [hd]

/-- An execute phase that raised a fault leaves the fault entry as the step's next state. -/
theorem step_of_raise (h : RunsNext s i) (he : exec i s.clearOutputs = raise f s.clearOutputs) : step s = raise f s := by
  rw [step_runsNext h, he, raise_eq, finish_next, if_neg (by simp)]
  rfl

/-- A 0NNN word faults, with that word in the record. -/
theorem step_of_op0NNN {nnn : Addr12} (h : RunsNext s (.op0NNN nnn)) :
    step s = raise (.unknownInstruction s.pc s.nextOpcode) s := by
  rw [← h.encode_eq]
  exact step_of_raise h (exec_op0NNN nnn _)

/-- Settles O4: the decoder rejects these words. -/
theorem illegalWordsOfFamilies8EFRaiseUnknownInstruction :
    Obligations.IllegalWordsOfFamilies8EFRaiseUnknownInstruction := by
  intro s op hs hp hop hill
  subst hop
  obtain ⟨e, he⟩ := decode_error_iff.2 (.inr hill)
  exact step_of_decode_error hs hp he

/-- Settles O5: the decoder rejects the words of the 5 and 9 families; those of the 0 family are the 0NNN case. -/
theorem illegalWordsOfFamilies059RaiseUnknownInstruction :
    Obligations.IllegalWordsOfFamilies059RaiseUnknownInstruction := by
  intro s op hs hp hop hill
  subst hop
  rcases hill with ⟨hf, h0, hE⟩ | h59
  · exact step_of_op0NNN ⟨hs, hp, decode_of_family0 hf h0 hE⟩
  · obtain ⟨e, he⟩ := decode_error_iff.2 (.inl h59)
    exact step_of_decode_error hs hp he

/-- Settles O11: the first failing address of a fetch is PC, or 0x1000 where PC is the last byte of memory. -/
theorem fetchPastTheEndOfMemoryFaults : Obligations.FetchPastTheEndOfMemoryFaults := by
  intro s hs hp
  have haddr : max s.pc.toNat memSize = if 0xFFF < s.pc.toNat then s.pc.toNat else 0x1000 := by
    rw [memSize]
    split <;> omega
  rw [step_running hs, runCycle, fetch_bad (by omega), haddr]
  rfl

theorem RunsNext.of_or {j k : Instr} (h : RunsNext s i) (hi : i = j ∨ i = k) : RunsNext s j ∨ RunsNext s k := by
  rcases hi with rfl | rfl
  · exact .inl h
  · exact .inr h

/-- The causes of AddressOutOfRange in an execute phase: the three kinds of access (R122). -/
theorem accessLen_cases (h0 : 0 < accessLen i) :
    (∃ x y n, i = .opDXYN x y n ∧ accessLen i = n.toNat) ∨ (∃ x, i = .opFX33 x ∧ accessLen i = 3) ∨
      ∃ x, (i = .opFX55 x ∨ i = .opFX65 x) ∧ accessLen i = x.toNat + 1 := by
  cases i with
  | opDXYN x y n => exact .inl ⟨x, y, n, rfl, rfl⟩
  | opFX33 x => exact .inr (.inl ⟨x, rfl, rfl⟩)
  | opFX55 x => exact .inr (.inr ⟨x, .inl rfl, rfl⟩)
  | opFX65 x => exact .inr (.inr ⟨x, .inr rfl, rfl⟩)
  | _ => exact absurd h0 (lt_irrefl 0)

/-- Settles O14: each fault of a step by the phase that raised it, each fault of an execute phase by its instruction. -/
theorem everyFaultHasTheCauseItsKindNames : Obligations.EveryFaultHasTheCauseItsKindNames := by
  intro s t f _ hstep ht
  obtain ⟨hf, -⟩ := step_raised hstep ht
  cases hf with
  | fetch h => exact ⟨by rw [memSize]; omega, .inl ⟨rfl, h, rfl⟩⟩
  | decode h he => exact ⟨rfl, h, .inl ⟨_, he⟩⟩
  | @execute i _ hi hc =>
    cases hc with
    | underflow h => exact ⟨hi, h, rfl⟩
    | overflow h => exact ⟨_, hi, h, rfl⟩
    | @noInstruction nnn =>
      refine ⟨hi.encode_eq, hi.2.1, .inr ⟨nnn, ?_⟩⟩
      rw [hi.encode_eq]
      exact hi.2.2
    | address h0 h =>
      rw [memSize] at h
      refine ⟨by rw [memSize]; omega, .inr ⟨congrArg some hi.encode_eq, rfl, ?_⟩⟩
      rcases accessLen_cases h0 with ⟨x, y, n, rfl, e⟩ | ⟨x, rfl, e⟩ | ⟨x, hx, e⟩
      · exact .inl ⟨x, y, n, hi, by omega, by omega⟩
      · exact .inr (.inl ⟨x, hi, by omega⟩)
      · exact .inr (.inr ⟨x, hi.of_or hx, by omega⟩)
    | @key _ x hx h => exact ⟨hi.encode_eq, h, x, hi.of_or hx, rfl⟩

end Sys2Proof.Machine

/-! # The invariant (10_state.md section 3, 20_memory.md section 1) -/

namespace Sys2Proof.Machine

variable {s t : State} {i : Instr}

/-! ## What keeps the invariant -/

/-- The invariant speaks of memory, the stack and PC alone. -/
theorem Inv.of_pc (h : Inv s) (hmem : t.mem = s.mem) (hstack : t.stack = s.stack) (hpc : t.pc.toNat ≤ 0x10FE) : Inv t :=
  ⟨hmem ▸ h.mem, hpc, hstack ▸ h.stack⟩

/-- PC may go on by two or four from where a fetch is legal, to no more than 0x1002. -/
theorem toNat_add_two_le {w : Word} (h : w.toNat ≤ 0xFFE) : (w + 2).toNat ≤ 0x10FE := by
  rw [BitVec.toNat_add]
  simp
  omega

theorem toNat_add_four_le {w : Word} (h : w.toNat ≤ 0xFFE) : (w + 4).toNat ≤ 0x10FE := by
  rw [BitVec.toNat_add]
  simp
  omega

/-- An instruction that goes on by 2 keeps the invariant with memory and the stack. -/
theorem Inv.advanced (h : Inv s) (hp : s.pc.toNat ≤ 0xFFE) (hmem : t.mem = s.mem) (hstack : t.stack = s.stack)
    (hpc : t.pc = s.pc + 2) : Inv t :=
  h.of_pc hmem hstack (hpc ▸ toNat_add_two_le hp)

theorem Inv.setPc (h : Inv s) {w : Word} (hw : w.toNat ≤ 0x10FE) : Inv (s.setPc w) := h.of_pc rfl rfl hw

theorem toNat_zextAddr_le (nnn : Addr12) : (zextAddr nnn).toNat ≤ 0x10FE := by
  rw [toNat_zextAddr]
  omega

theorem toNat_skip_le (hp : s.pc.toNat ≤ 0xFFE) (c : Bool) : (if c then s.pc + 4 else s.pc + 2).toNat ≤ 0x10FE := by
  split
  · exact toNat_add_four_le hp
  · exact toNat_add_two_le hp

/-- A run of stored bytes that the address check let pass keeps memory canonical. -/
theorem Inv.stored (h : Inv s) (hp : s.pc.toNat ≤ 0xFFE) {bytes : List Byte} {base : Nat}
    (hb : base + bytes.length ≤ memSize) (hmem : t.mem = s.mem.writeBytes base bytes) (hstack : t.stack = s.stack)
    (hpc : t.pc = s.pc + 2) : Inv t :=
  ⟨hmem ▸ Memory.wf_writeBytes h.mem hb, hpc ▸ toNat_add_two_le hp, hstack ▸ h.stack⟩

/-- A return goes to an entry of the stack plus 2. -/
theorem Inv.returned (h : Inv s) {w : Word} (hpop : s.pop = some (w, t)) : Inv (t.setPc (w + 2)) := by
  obtain ⟨hk, -, rfl, rfl⟩ := pop_some hpop
  exact h.of_pc rfl rfl (toNat_add_two_le (h.stack ⟨s.sp.val - 1, hk⟩))

/-- A call pushes a PC that was fetched from. -/
theorem Inv.called (h : Inv s) (hp : s.pc.toNat ≤ 0xFFE) (hpush : s.push s.pc = some t) (nnn : Addr12) :
    Inv (t.setPc (zextAddr nnn)) := by
  obtain ⟨hs, rfl⟩ := push_some hpush
  refine ⟨h.mem, toNat_zextAddr_le nnn, fun k => ?_⟩
  have hk : ((s.pushed s.pc hs).stack[k]).toNat ≤ 0x0FFE := by
    rw [State.getElem_stack_pushed]
    split
    · exact hp
    · exact h.stack k
  exact hk

/-! ## Steps -/

/-- Every instruction that a core could fetch keeps the invariant where it raises no fault. -/
theorem exec_keeps_inv (h : Inv s) (hp : s.pc.toNat ≤ 0xFFE) (i : Instr) : Answers i s Inv (exec i s) := by
  cases i with
  | op00EE => exact answers_exec00EE fun _ _ hpop => h.returned hpop
  | op0NNN => exact answers_raise .noInstruction
  | op1NNN => exact answers_next (h.setPc (toNat_zextAddr_le _))
  | op2NNN => exact answers_exec2NNN fun _ hpush => h.called hp hpush _
  | op3XNN | op4XNN | op5XY0 | op9XY0 => exact answers_next (h.setPc (toNat_skip_le hp _))
  | opBNNN nnn =>
    refine answers_next (h.setPc ?_)
    rw [toNat_trunc16]
    omega
  | opEX9E => exact answers_skipOnKey (.inl rfl) fun c => h.setPc (toNat_skip_le hp c)
  | opEXA1 => exact answers_skipOnKey (.inr rfl) fun c => h.setPc (toNat_skip_le hp c)
  | op00E0 | op6XNN | op7XNN | op8XY0 | op8XY1 | op8XY2 | op8XY3 | op8XY4 | op8XY5 | op8XY6 | op8XY7 | op8XYE | opANNN | opCXNN
  | opFX07 | opFX15 | opFX18 | opFX1E | opFX29 => exact answers_next (h.advanced hp rfl rfl rfl)
  | opFX0A => exact answers_execFX0A (fun _ => h) fun _ _ => h.advanced hp rfl rfl rfl
  | opDXYN => exact answers_requireAddrs rfl fun _ => h.advanced hp rfl rfl rfl
  | opFX65 x =>
    refine answers_requireAddrs rfl fun _ => h.advanced hp ?_ ?_ ?_
    · rw [State.advance_mem, State.stepIndex_mem, State.loadBlock_mem]
    · rw [State.advance_stack, State.stepIndex_stack, State.loadBlock_stack]
    · rw [State.advance_pc, State.stepIndex_pc, State.loadBlock_pc]
  | opFX33 =>
    refine answers_requireAddrs rfl fun hb => h.stored hp ?_ rfl rfl rfl
    rw [length_bcdDigits]
    exact hb.resolve_left (by decide)
  | opFX55 x =>
    refine answers_requireAddrs rfl fun hb => h.stored hp ?_ rfl rfl rfl
    rw [length_regBlock]
    exact hb.resolve_left (Nat.succ_ne_zero _)

/-- Settles O15: the execute phase of a fetched instruction keeps the invariant, and a fault entry and the end of step write
neither memory nor the stack nor PC. -/
theorem stepKeepsMemoryCanonicalAndPcBounded : Obligations.StepKeepsMemoryCanonicalAndPcBounded := by
  intro s t h hstep
  rcases step_next_cases hstep with ⟨f, -, rfl⟩ | ⟨i, u, hi, hu, -, rfl⟩
  · exact h.of_pc rfl rfl h.pc
  · have hclear : Inv s.clearOutputs := h.of_pc rfl rfl h.pc
    have hinv : Inv u := (exec_keeps_inv hclear hi.2.1 i).of_exec (fun f => hclear.of_pc rfl rfl hclear.pc) hu
    exact hinv.of_pc rfl rfl hinv.pc

/-! ## Power-on, host operations, runs -/

/-- Settles O16: memory lists nothing, PC is 0x200 and the stack is zero. -/
theorem powerOnStateMeetsTheInvariant : Obligations.PowerOnStateMeetsTheInvariant :=
  ⟨rfl, by decide, by decide⟩

/-- A loaded program keeps memory canonical, and PC and the stack take small values. -/
theorem Inv.loaded (h : Inv s) {bytes : List Byte} (hlen : bytes.length ≤ maxRom) : Inv (s.loaded bytes) := by
  rw [maxRom] at hlen
  have hpc : (0x0200 : Word).toNat ≤ 0x10FE := by decide
  refine ⟨Memory.wf_writeBytes h.mem (by rw [progBase, memSize]; omega), hpc, fun k => ?_⟩
  have hk : (s.loaded bytes).stack[k] = 0x0000 := Vector.getElem_replicate k.isLt
  rw [hk]
  decide

/-- Settles O17: power-on starts again, the loads write bytes that exist, and a key press writes none of the three. -/
theorem hostOperationsKeepMemoryCanonicalAndPcBounded : Obligations.HostOperationsKeepMemoryCanonicalAndPcBounded := by
  intro s o h
  cases o with
  | powerOn => exact powerOnStateMeetsTheInvariant
  | installFontset bytes =>
    rcases HostOp.after_installFontset bytes s with ⟨hlen, e⟩ | e
    · rw [e]
      rw [fontLen] at hlen
      exact ⟨Memory.wf_writeBytes h.mem (by rw [fontBase, memSize]; omega), h.pc, h.stack⟩
    · rwa [e]
  | loadProgram bytes =>
    rcases HostOp.after_loadProgram bytes s with ⟨hlen, e⟩ | e
    · rw [e]
      exact h.loaded hlen
    · rwa [e]
  | setKey k pressed => exact h.of_pc rfl rfl h.pc

/-- Settles O18: by induction on the run. -/
theorem everyReachableStateMeetsTheInvariant : Obligations.EveryReachableStateMeetsTheInvariant := by
  intro s hs
  induction hs with
  | powerOn => exact powerOnStateMeetsTheInvariant
  | step _ hstep ih => exact stepKeepsMemoryCanonicalAndPcBounded _ _ ih hstep
  | host o _ ih => exact hostOperationsKeepMemoryCanonicalAndPcBounded _ o ih

end Sys2Proof.Machine
